-- ==== Sys2Proof/Word.lean ====
section
/-! DEFINITION. The words of the block: bytes, the 9-bit run count and the 10-bit command word
(00_scope.md R7, R8). Every value is unsigned; there is no sign extension anywhere (R8). -/

namespace Sys2Proof

/-- A byte, `DATA_W` = 8 bits (R7). -/
abbrev Byte := BitVec 8

/-- The register `run_count`, `COUNT_W` = 9 bits (R7, R23). -/
abbrev Count := BitVec 9

/-- The command word `cmd[9:0]`, `CMD_W` = 10 bits (R7, R61). -/
abbrev CmdWord := BitVec 10

end Sys2Proof
end

