-- ==== Sys2Proof/Config.lean ====
section
/-! DEFINITION. The block's parameters (00_scope.md R7). "No parameter is left open: a model takes
none of these as an argument", and no rule leaves a value open, so there is no opaque constant. -/

namespace Sys2Proof.Config

/-- `ESC`, the escape sentinel (R7, R101). -/
abbrev esc : Byte := 0xFF

/-- `MAX_RUN`, the largest run length one token encodes (R7, R102). -/
abbrev maxRun : Count := 256

/-- `TOK_MAX`, the bytes of the largest token (R7). -/
abbrev tokMax : Nat := 3

/-- The largest value of an input byte (R7: "values 0..255"). -/
abbrev maxByte : Nat := 255

end Sys2Proof.Config
end

