-- ==== Sys2Proof/Syntax.lean ====
section
/-! DEFINITION. The commands of RLEENC-CMD (00_scope.md R2): one constructor per row of
spec/opcode_table.json, and the two modes a CONFIGURE names. -/

namespace Sys2Proof

/-- The two modes (10_state.md R24): 0 = raw, 1 = rle. -/
inductive Mode where
  | raw
  | rle
  deriving DecidableEq, Repr

/-- A command. `submit` takes a natural number, the "source's software argument" of
60_exceptions.md R202: DESIGN CHOICE, log entry 7 (safe). The decoder only yields 0..255. -/
inductive Instr where
  /-- NOP (41_commands.md R132). -/
  | nop
  /-- SUBMIT b (41_commands.md R134). -/
  | submit (b : Nat)
  /-- FINISH (41_commands.md R141). -/
  | finish
  /-- CONFIGURE m (41_commands.md R133). -/
  | configure (m : Mode)
  deriving DecidableEq, Repr

end Sys2Proof
end

