-- ==== Sys2Proof/WellFormed.lean ====
section
/-! DEFINITION. Which commands have a command word: those whose operand fits its field
(30_encoding.md R62, R73: "any other value is refused by the assembler"). -/

namespace Sys2Proof

/-- A SUBMIT operand fits `cmd[7:0]`; the other commands have no operand that could fail (R62 to R64). -/
def Instr.wellFormed : Instr → Bool
  | .nop => true
  | .submit b => decide (b ≤ Config.maxByte)
  | .finish => true
  | .configure _ => true

end Sys2Proof
end

