-- ==== Sys2Proof/Decode.lean ====
section
/-! DEFINITION. The command word (30_encoding.md R61 to R68): fields, the decoder, which refuses a word
with a nonzero reserved bit by name (R65), the hardware's own reading, which ignores those bits (R65),
the encoder, and the opcode table as mask and match. -/

namespace Sys2Proof

/-- The encoding of a mode (R24, R63): 0 raw, 1 rle. -/
def Mode.bit : Mode → BitVec 1
  | .raw => 0
  | .rle => 1

/-- The mode that `cmd[0]` names (R63): "0 for raw and 1 for rle". -/
def Mode.ofBit (b : BitVec 1) : Mode := if b = 1 then .rle else .raw

/-- The four values of the field `op` (R61). -/
inductive Op where
  | nop
  | submit
  | finish
  | configure
  deriving DecidableEq, Repr

/-- The encoding of `op` (R61): 00 NOP, 01 SUBMIT, 10 FINISH, 11 CONFIGURE. -/
def Op.bits : Op → BitVec 2
  | .nop => 0
  | .submit => 1
  | .finish => 2
  | .configure => 3

/-- The `op` a 2-bit field names; all four values are defined (R66). -/
def Op.ofBits (v : BitVec 2) : Op :=
  if v = 0 then .nop else if v = 1 then .submit else if v = 2 then .finish else .configure

/-- `cmd[9:8]` (R61). -/
def opField (w : CmdWord) : Op := Op.ofBits (w.extractLsb' 8 2)

/-- `cmd[7:0]` (R61). -/
def dataField (w : CmdWord) : Byte := w.extractLsb' 0 8

/-- The bits of `data` each command reserves (R63, R64): SUBMIT none, CONFIGURE `data[7:1]`,
NOP and FINISH all. -/
def reservedMask : Op → Byte
  | .nop => 0xFF
  | .submit => 0x00
  | .finish => 0xFF
  | .configure => 0xFE

/-- The reserved bits of a word, the others read as 0 (R65). -/
def reservedBits (w : CmdWord) : Byte := dataField w &&& reservedMask (opField w)

/-- The same word "with those bits 0" (R65). -/
def clearReserved (w : CmdWord) : CmdWord :=
  (opField w).bits ++ (dataField w &&& ~~~ reservedMask (opField w))

/-- The hardware's reading of any word: "the hardware ignores the reserved bits" (R65). -/
def decodeIgnoring (w : CmdWord) : Instr :=
  match opField w with
  | .nop => .nop
  | .submit => .submit (dataField w).toNat
  | .finish => .finish
  | .configure => .configure (Mode.ofBit ((dataField w).extractLsb' 0 1))

/-- Why a word is no admitted command (R65): the command whose reserved bits are not all 0. -/
inductive Reject where
  | nopReserved
  | finishReserved
  | configureReserved
  deriving DecidableEq, Repr

/-- The name of the rejection of a word with this `op`; SUBMIT reserves no bit, so its row is never asked for. -/
def Reject.ofOp : Op → Reject
  | .nop => .nopReserved
  | .submit => .nopReserved
  | .finish => .finishReserved
  | .configure => .configureReserved

/-- The decoder of the model: total on every 10-bit word; "a model, a decoder or an assembler refuses a word
with a nonzero reserved bit" (R65; log entry 5, safe). -/
def decode (w : CmdWord) : Except Reject Instr :=
  if reservedBits w = 0#8 then .ok (decodeIgnoring w) else .error (Reject.ofOp (opField w))

/-- The word of a well-formed command, `{op, data}` with reserved bits 0 (R61 to R64, R68); an operand
that does not fit its field has no word (R73). -/
def encode : Instr → Option CmdWord
  | .nop => some (Op.nop.bits ++ 0#8)
  | .submit b => if b ≤ Config.maxByte then some (Op.submit.bits ++ BitVec.ofNat 8 b) else none
  | .finish => some (Op.finish.bits ++ 0#8)
  | .configure m => some (Op.configure.bits ++ (0#7 ++ m.bit))

/-- One row of spec/opcode_table.json. -/
structure OpcodeRow where
  op : Op
  matchWord : CmdWord
  mask : CmdWord
  deriving DecidableEq, Repr

/-- spec/opcode_table.json, its `match` and `mask`, "the reserved bits as zero" (R65). -/
def opcodeTable : List OpcodeRow :=
  [⟨.nop, 0x000, 0x3FF⟩, ⟨.submit, 0x100, 0x300⟩, ⟨.finish, 0x200, 0x3FF⟩, ⟨.configure, 0x300, 0x3FE⟩]

/-- A word lies under a row of the table. -/
def OpcodeRow.covers (r : OpcodeRow) (w : CmdWord) : Bool := (w &&& r.mask) == r.matchWord

/-- The row of the table a command belongs to. -/
def Instr.op : Instr → Op
  | .nop => .nop
  | .submit _ => .submit
  | .finish => .finish
  | .configure _ => .configure

/-- The byte on `cmd[7:0]` of a SUBMIT, 0 for a command that has no byte operand. -/
def Instr.byte : Instr → Byte
  | .nop => 0
  | .submit b => BitVec.ofNat 8 b
  | .finish => 0
  | .configure _ => 0

/-- The command in a container of `nbits` bits with value `w`, bit 0 the word's bit 0: the container's bits above
bit 9 are no part of a command word ("every command word is exactly 10 bits", R61), so a container that has one
set holds no command (DESIGN CHOICE, log entry 9, safe). -/
def decodeTableWord (nbits w : Nat) : Option Instr :=
  if w % 2 ^ nbits < 2 ^ 10 then
    match decode (BitVec.ofNat 10 (w % 2 ^ nbits)) with
    | .ok i => some i
    | .error _ => none
  else none

end Sys2Proof
end

