-- ==== Sys2Proof/Machine/State.lean ====
section
/-! DEFINITION. The whole architectural state of the block (10_state.md R20), its ports (30_encoding.md R60)
and the reasons a step can stop. -/

namespace Sys2Proof.Machine

/-- The register `phase` (R25), all four 2-bit values. -/
inductive Phase where
  /-- 00 IDLE: no byte submitted yet, CONFIGURE allowed. -/
  | idle
  /-- 01 ACTIVE: at least one byte submitted, mode fixed. -/
  | active
  /-- 10 DONE: `finish()` accepted. -/
  | done
  /-- 11 FAULT: a programming error was rejected. -/
  | fault
  deriving DecidableEq, Repr

/-- The register `err_code` (R26), all four 2-bit values. -/
inductive ErrCode where
  /-- 00 NONE. -/
  | none
  /-- 01 SESSION_STATE. -/
  | sessionState
  /-- 10 INVALID_BYTE. -/
  | invalidByte
  /-- 11 "reserved and never written". -/
  | reserved
  deriving DecidableEq, Repr

/-- The output of a step (00_scope.md R10): at most one token. -/
inductive Token where
  /-- `NoTok`, the absence of output. -/
  | noTok
  /-- `Raw(b)`, the one-byte output of raw mode. -/
  | raw (b : Byte)
  /-- `Lit(v)`, a literal token. -/
  | lit (v : Byte)
  /-- `Esc(L, v)`, an escape token with encoded length `L` and value `v`. -/
  | esc (l v : Byte)
  deriving DecidableEq, Repr

/-- One presentation of the input ports (R60): the reset request and the command word of one step. -/
structure Input where
  rst : Bool
  cmd : CmdWord
  deriving DecidableEq, Repr

/-- The state. The six registers are the spec's whole architectural state (R20). `token` is the output port
(R72; log entry 3), `inputs` what the host has still to present on the input ports, oldest first (R32, R60; log
entry 1), and `hasReset` whether a reset step has happened (R243; log entry 4). -/
structure State where
  /-- `run_valid` (R21). -/
  runValid : Bool
  /-- `run_value` (R22). -/
  runValue : Byte
  /-- `run_count` (R23). -/
  runCount : Count
  /-- `mode` (R24). -/
  mode : Mode
  /-- `phase` (R25). -/
  phase : Phase
  /-- `err_code` (R26). -/
  errCode : ErrCode
  /-- The token of the most recent step, on the output port (R72). -/
  token : Token
  /-- The presentations of (`rst`, `cmd`) the host has still to make. -/
  inputs : List Input
  /-- The model's own: a reset step has happened (R243). -/
  hasReset : Bool
  deriving DecidableEq, Repr

/-- Reasons for a fault that stops the machine. None: the block's errors are a phase the machine goes on in
(60_exceptions.md R203, R205), so nobody raises one (safe; log entry 8). -/
inductive Fault where
  deriving DecidableEq, Repr

/-- Reasons to give a step no meaning. -/
inductive Refusal where
  /-- An instruction without a meaning; raised by no arm of exec (safe). -/
  | notModelled (mnemonic : String)
  /-- Raised by the step when the command word has a nonzero reserved bit, which "a model, a decoder or an assembler
  refuses" (30_encoding.md R65). Safe: the hardware goes on. -/
  | reservedBits (why : Reject)
  /-- Raised by every command when no reset step has happened: "refuses any command that is not preceded by a
  reset" (70_reset_and_hazards.md R243). Safe. -/
  | beforeReset
  /-- Raised by every command in a state that breaks an invariant of 10_state.md R28: "not reachable and the step rules
  give it no meaning (a model refuses it)". Safe. -/
  | unreachableState
  deriving DecidableEq, Repr

/-- Right after reset (R35, 70_reset_and_hazards.md R240). The six registers and the token have the spec's reset values;
`inputs` is empty (DESIGN CHOICE, log entry 1) and `hasReset` true (DESIGN CHOICE, log entry 4). -/
def State.reset : State where
  runValid := false
  runValue := 0
  runCount := 0
  mode := .raw
  phase := .idle
  errCode := .none
  token := .noTok
  inputs := []
  hasReset := true

end Sys2Proof.Machine
end

