-- ==== Sys2Proof/Machine/Datapath.lean ====
section
/-! DEFINITION. The combinational units (40_datapath.md): byte comparator, run classifier, length counter, token-format
encoder with its selector, output multiplexer, and the drive of the output port (30_encoding.md R72). -/

namespace Sys2Proof.Machine

/-- Byte comparator (R100): "exact integer equality on 0..255". -/
def eq8 (a b : Byte) : Bool := a == b

/-- Sentinel test (R101). -/
def isEsc (v : Byte) : Bool := eq8 v Config.esc

/-- Cap test (R102): `full(c) = (c = 256)`. -/
def full (c : Count) : Bool := c == Config.maxRun

/-- The four cases of a SUBMIT in rle mode (R103). -/
inductive RunCase where
  | start
  | cont
  | cap
  | brk
  deriving DecidableEq, Repr

/-- Run classifier (R103), the cases tested in the rule's order. -/
def classify (valid : Bool) (v : Byte) (c : Count) (b : Byte) : RunCase :=
  if valid = false then .start
  else if eq8 b v = true ∧ full c = false then .cont
  else if eq8 b v = true ∧ full c = true then .cap
  else .brk

/-- Length counter (R105): the next `run_count` after a SUBMIT in rle mode. -/
def nextCount (k : RunCase) (c : Count) : Count :=
  match k with
  | .start => 1
  | .cont => c + 1
  | .cap => 1
  | .brk => 1

/-- Escape-vs-literal selector (R107). -/
def selLit (v : Byte) (c : Count) : Bool := (c == 1) && !isEsc v

/-- Encoded length (R108): `L = (c - 1)[7:0]`. -/
def encodedLength (c : Count) : Byte := (c - 1).extractLsb' 0 8

/-- Token-format encoder, the flush rule (R106). Its domain is `1 <= c <= 256`; every command refuses a state outside it
(log entry 6). -/
def tokfmt (v : Byte) (c : Count) : Token :=
  if selLit v c then .lit v else .esc (encodedLength c) v

/-- The three sources of the output multiplexer (R110). -/
inductive OutSel where
  | none
  | raw
  | run
  deriving DecidableEq, Repr

/-- Output multiplexer (R110): `NoTok`, `Raw(b)`, or the token of the pre-step run registers. -/
def outMux (sel : OutSel) (b v : Byte) (c : Count) : Token :=
  match sel with
  | .none => .noTok
  | .raw => .raw b
  | .run => tokfmt v c

/-- `bytes(t)` (00_scope.md R10); the order is that of 20_memory.md R44. -/
def Token.bytes : Token → List Byte
  | .noTok => []
  | .raw b => [b]
  | .lit v => [v]
  | .esc l v => [Config.esc, l, v]

/-- The output port (R60, R72). -/
structure OutPort where
  tokLen : BitVec 2
  tokB0 : Byte
  tokB1 : Byte
  tokB2 : Byte
  deriving DecidableEq, Repr

/-- What the multiplexer drives for a token (R111, R72). -/
def Token.drive : Token → OutPort
  | .noTok => ⟨0, 0, 0, 0⟩
  | .raw b => ⟨1, b, 0, 0⟩
  | .lit v => ⟨1, v, 0, 0⟩
  | .esc l v => ⟨3, Config.esc, l, v⟩

/-- The output port as the host sees it after the most recent step (R72, R247). -/
def State.outPort (s : State) : OutPort := s.token.drive

/-- The bytes a host takes from the port: those within `tok_len` only (R72); none for the length 10, which "is never
driven" and which a host treats as a fault (93_implementation_defined.md entry 10). -/
def OutPort.read (p : OutPort) : Option (List Byte) :=
  if p.tokLen = 0 then some []
  else if p.tokLen = 1 then some [p.tokB0]
  else if p.tokLen = 3 then some [p.tokB0, p.tokB1, p.tokB2]
  else none

end Sys2Proof.Machine
end

