-- ==== Sys2Proof/Machine/Flags.lean ====
section
/-! DEFINITION. The only flags of the block are `phase` and `err_code` (10_state.md R31): their encodings, the status
port (R27), and the invariants of R28. -/

namespace Sys2Proof.Machine

/-- The 2-bit encoding of `phase` (R25). -/
def Phase.bits : Phase → BitVec 2
  | .idle => 0
  | .active => 1
  | .done => 2
  | .fault => 3

/-- The 2-bit encoding of `err_code` (R26). -/
def ErrCode.bits : ErrCode → BitVec 2
  | .none => 0
  | .sessionState => 1
  | .invalidByte => 2
  | .reserved => 3

/-- The status output port: `{err_code[1:0], mode, phase[1:0]}` (R27). -/
def State.status (s : State) : BitVec 5 := s.errCode.bits ++ s.mode.bit ++ s.phase.bits

/-- R28, items 1 to 6 in order; what holds in every state reachable from reset. -/
abbrev State.Coherent (s : State) : Prop :=
  ((s.runValid = false ↔ s.runCount = 0) ∧ (s.runValid = false → s.runValue = 0)) ∧
  (s.runValid = true → 1 ≤ s.runCount.toNat ∧ s.runCount.toNat ≤ 256) ∧
  (s.mode = .raw → s.runValid = false) ∧
  (s.phase = .idle ∨ s.phase = .done → s.runValid = false) ∧
  ((s.errCode ≠ .none ↔ s.phase = .fault) ∧ s.errCode ≠ .reserved) ∧
  (s.phase = .active ∧ s.mode = .rle → s.runValid = true)

end Sys2Proof.Machine
end

