-- ==== Sys2Proof/Machine/Ops.lean ====
section
/-! DEFINITION. The named operations on the state: the register writes, presenting an input, reset
(70_reset_and_hazards.md R240), the fault entry (60_exceptions.md R203), and the checks every command passes first. -/

namespace Sys2Proof.Machine

/-- `emit(t)` (00_scope.md R9): the token of the current step. -/
def State.emit (s : State) (t : Token) : State := { s with token := t }

/-- `phase <- p`. -/
def State.setPhase (s : State) (p : Phase) : State := { s with phase := p }

/-- `mode <- m`. -/
def State.setMode (s : State) (m : Mode) : State := { s with mode := m }

/-- `err_code <- e`. -/
def State.setErr (s : State) (e : ErrCode) : State := { s with errCode := e }

/-- `run_valid <- valid; run_value <- v; run_count <- c`. -/
def State.setRun (s : State) (valid : Bool) (v : Byte) (c : Count) : State :=
  { s with runValid := valid, runValue := v, runCount := c }

/-- The idle presentation: `rst = 0`, `cmd = 0x000` (70_reset_and_hazards.md R252, row idle). -/
def Input.idle : Input := ⟨false, 0x000⟩

/-- What stands on the input ports in this step: the head of the schedule. A host with nothing left to present idles:
NOP "is the step of a host with nothing to present" (R132, D15; DESIGN CHOICE, log entry 2, unsafe). -/
def State.presented (s : State) : Input := s.inputs.headD Input.idle

/-- The presentation of this step is taken. -/
def State.consumed (s : State) : State := { s with inputs := s.inputs.tail }

/-- The next step's presentation is replaced by this one. -/
def State.present (s : State) (inp : Input) : State := { s with inputs := inp :: s.inputs.tail }

/-- `do_reset()` (R240): every register at its reset value, no token. It reads no register, so it has its effect before
the first reset too (R243). -/
def State.doReset (s : State) : State :=
  { s with
    runValid := false, runValue := 0, runCount := 0, mode := .raw, phase := .idle, errCode := .none,
    token := .noTok, hasReset := true }

/-- Fault entry, `raise E(code)` (R203): `phase <- FAULT`, `err_code <- code`, NoTok, the rest kept. There is no return
from it but reset (R208). -/
def State.raise (s : State) (code : ErrCode) : State :=
  ((s.setPhase .fault).setErr code).emit .noTok

/-- What every command does first, `body` being its own effect: it is refused before the first reset (R243) and in a state
that breaks R28 (R28: "a model refuses it"), and in FAULT it has no effect and outputs NoTok (R131, R205). -/
def command (s : State) (body : State → State) : Host.Outcome State Fault Refusal :=
  if s.hasReset = false then .refused .beforeReset
  else if ¬ s.Coherent then .refused .unreachableState
  else if s.phase = .fault then .next (s.emit .noTok)
  else .next (body s)

end Sys2Proof.Machine
end

