-- ==== Sys2Proof/Machine/Control.lean ====
section
/-! DEFINITION. The commands that carry no byte: NOP, CONFIGURE and FINISH (41_commands.md R132, R133, R141). -/

namespace Sys2Proof.Machine

/-- NOP (R132): nothing written, no emit, no error in any phase. -/
def execNop (s : State) : Host.Outcome State Fault Refusal :=
  command s fun s => s.emit .noTok

/-- CONFIGURE (R133): the mode is written in IDLE only; elsewhere SESSION_STATE (R201 item 3). -/
def execConfigure (m : Mode) (s : State) : Host.Outcome State Fault Refusal :=
  command s fun s =>
    if s.phase = .idle then (s.setMode m).emit .noTok
    else s.raise .sessionState

/-- FINISH in IDLE or ACTIVE (R141): `phase <- DONE`; in rle mode with a run pending the run's token is output and the run
registers cleared (R142), else nothing is output (R143, R144). -/
def finishAccepted (s : State) : State :=
  if s.mode = .rle ∧ s.runValid = true then
    ((s.setPhase .done).setRun false 0 0).emit (outMux .run 0 s.runValue s.runCount)
  else (s.setPhase .done).emit .noTok

/-- FINISH (R141); in DONE it is a SESSION_STATE error (R201 item 2). -/
def execFinish (s : State) : Host.Outcome State Fault Refusal :=
  command s fun s =>
    if s.phase = .done then s.raise .sessionState
    else finishAccepted s

end Sys2Proof.Machine
end

