-- ==== Sys2Proof/Machine/Operands.lean ====
section
/-! DEFINITION. The operand forms: the byte of SUBMIT (30_encoding.md R62, 60_exceptions.md R202) and the mode of
CONFIGURE (R63), which `Instr.configure` already holds as a mode. -/

namespace Sys2Proof.Machine

/-- The submitted byte, "an unsigned 8-bit value used as is" (R62), or none for an operand "outside [0,255]", which is
never truncated (R202). -/
def submittedByte (b : Nat) : Option Byte :=
  if b ≤ Config.maxByte then some (BitVec.ofNat 8 b) else none

end Sys2Proof.Machine
end

