-- ==== Sys2Proof/Machine/Submit.lean ====
section
/-! DEFINITION. SUBMIT (41_commands.md R134 to R140). -/

namespace Sys2Proof.Machine

/-- The run registers after a byte in rle mode (R136 to R139): `run_valid` is 1 in every case, `run_value` is written in
START and BREAK only, and `run_count` is the length counter's (R105). -/
def foldByte (s : State) (k : RunCase) (b : Byte) : State :=
  match k with
  | .start => s.setRun true b (nextCount k s.runCount)
  | .cont => s.setRun s.runValid s.runValue (nextCount k s.runCount)
  | .cap => s.setRun s.runValid s.runValue (nextCount k s.runCount)
  | .brk => s.setRun s.runValid b (nextCount k s.runCount)

/-- What a SUBMIT in rle mode puts on the output (R110): the pending run's token in CAP and BREAK. -/
def submitSel : RunCase → OutSel
  | .start => .none
  | .cont => .none
  | .cap => .run
  | .brk => .run

/-- SUBMIT of a byte in IDLE or ACTIVE (R134): `phase <- ACTIVE`; raw mode outputs the byte (R135), rle mode folds it into
the run (R136 to R139). The classifier and the token read the pre-step registers. -/
def submitAccepted (s : State) (b : Byte) : State :=
  match s.mode with
  | .raw => (s.setPhase .active).emit (outMux .raw b s.runValue s.runCount)
  | .rle =>
    (foldByte (s.setPhase .active) (classify s.runValid s.runValue s.runCount b) b).emit
      (outMux (submitSel (classify s.runValid s.runValue s.runCount b)) b s.runValue s.runCount)

/-- SUBMIT (R134): SESSION_STATE in DONE (R201 item 1), then INVALID_BYTE for an operand outside [0,255] (R202, priority
R206), then its effect. -/
def execSubmit (b : Nat) (s : State) : Host.Outcome State Fault Refusal :=
  command s fun s =>
    if s.phase = .done then s.raise .sessionState
    else
      match submittedByte b with
      | none => s.raise .invalidByte
      | some byte => submitAccepted s byte

end Sys2Proof.Machine
end

