-- ==== Sys2Proof/Machine/Dispatch.lean ====
section
/-! DEFINITION. The dispatch of a decoded command to its meaning (41_commands.md R131), one arm per constructor. -/

namespace Sys2Proof.Machine

def exec (i : Instr) (s : State) : Host.Outcome State Fault Refusal :=
  match i with
  | .nop => Sys2Proof.Machine.execNop s
  | .submit b => Sys2Proof.Machine.execSubmit b s
  | .finish => Sys2Proof.Machine.execFinish s
  | .configure m => Sys2Proof.Machine.execConfigure m s

end Sys2Proof.Machine
end

