-- ==== Sys2Proof/Machine/Cycle.lean ====
section
/-! DEFINITION. One step on given inputs, `step(rst, cmd)` of 41_commands.md R131, as the model runs it and as the hardware
does where a reserved bit is set (30_encoding.md R65). -/

namespace Sys2Proof.Machine

/-- `step(rst, cmd)` (R131): reset first, whatever `cmd` holds (R67, R240); then the command the word spells, a word with a
nonzero reserved bit being refused (R65). The FAULT test stands in every command (`command`). -/
def stepInput (inp : Input) (s : State) : Host.Outcome State Fault Refusal :=
  if inp.rst = true then .next s.doReset
  else
    match decode inp.cmd with
    | .error why => .refused (.reservedBits why)
    | .ok i => exec i s

/-- `step(rst, cmd)` with the reserved bits ignored, as "the hardware ignores the reserved bits" (R65). The model's step
does not use it; it says what the refused words do in the hardware. -/
def stepInputHardware (inp : Input) (s : State) : Host.Outcome State Fault Refusal :=
  if inp.rst = true then .next s.doReset else exec (decodeIgnoring inp.cmd) s

end Sys2Proof.Machine
end

