-- ==== Sys2Proof/Machine/Step.lean ====
section
/-! DEFINITION. The step of the machine: the presentation at the head of the schedule is taken and the block runs it
(41_commands.md R130, R131). -/

namespace Sys2Proof.Machine

/-- One step (R130): it takes one presentation of (`rst`, `cmd`). -/
def step (s : State) : Host.Outcome State Fault Refusal :=
  Sys2Proof.Machine.stepInput s.presented s.consumed

/-- `s` with the command word in a container of `nbits` bits as the next presentation, `rst = 0` (log entry 9). -/
def State.withFetchWord (s : State) (nbits w : Nat) : State :=
  s.present ⟨false, BitVec.ofNat 10 (w % 2 ^ nbits)⟩

end Sys2Proof.Machine
end

