-- ==== Sys2Proof/Machine/Session.lean ====
section
/-! DEFINITION. Sessions and their output (00_scope.md R11, 70_reset_and_hazards.md R241, R244): the steps a schedule of
inputs takes, the tokens they output, and the two encodings. -/

namespace Sys2Proof.Machine

/-- A reset step (R240); its `cmd` is "ignored, written 0x000" (30_encoding.md R73). -/
def Input.reset : Input := ⟨true, 0x000⟩

/-- SUBMIT b, the word `0x100 + b` (R68). -/
def Input.submit (b : Byte) : Input := ⟨false, Op.submit.bits ++ b⟩

/-- FINISH, the word `0x200` (R68). -/
def Input.finish : Input := ⟨false, 0x200⟩

/-- CONFIGURE m, the word `0x300` or `0x301` (R68). -/
def Input.configure (m : Mode) : Input := ⟨false, Op.configure.bits ++ (0#7 ++ m.bit)⟩

/-- `n` steps: the state after them and the tokens they output, in step order (R11, R43); the first stop ends the run. -/
def runTokens : Nat → State → Host.Outcome (State × List Token) Fault Refusal
  | 0, s => .next (s, [])
  | n + 1, s =>
    match step s with
    | .fault r => .fault r
    | .refused r => .refused r
    | .next t =>
      match runTokens n t with
      | .fault r => .fault r
      | .refused r => .refused r
      | .next (u, ts) => .next (u, t.token :: ts)

/-- The steps of a schedule, each presentation once. -/
def runInputs (ins : List Input) (s : State) : Host.Outcome (State × List Token) Fault Refusal :=
  runTokens ins.length { s with inputs := ins }

/-- The output stream of a sequence of tokens (R11): `bytes(t_1) ++ bytes(t_2) ++ ...`. -/
def outBytes (ts : List Token) : List Byte := ts.flatMap Token.bytes

/-- The presentations of an encoding up to FINISH (R244, items 1 to 3): a reset, any number of CONFIGUREs, one SUBMIT per
byte. -/
def streamInputs (ms : List Mode) (bytes : List Byte) : List Input :=
  Input.reset :: (ms.map Input.configure ++ bytes.map Input.submit)

/-- The presentations of a complete encoding (R244). -/
def sessionInputs (ms : List Mode) (bytes : List Byte) : List Input :=
  streamInputs ms bytes ++ [Input.finish]

/-- The mode such a session runs in: "the last one choosing the mode", and "without one the mode is raw" (R244). -/
def chosenMode (ms : List Mode) : Mode := ms.getLastD .raw

/-- The output of the complete encoding, from any state before its reset (R11, R241); none if a step stopped. -/
def encodeSession (s : State) (ms : List Mode) (bytes : List Byte) : Option (List Byte) :=
  match runInputs (sessionInputs ms bytes) s with
  | .next (_, ts) => some (outBytes ts)
  | .fault _ => none
  | .refused _ => none

end Sys2Proof.Machine
end

