-- ==== Sys2Proof/Machine/Assembler.lean ====
section
/-! DEFINITION. The program text of this spec (30_encoding.md R73) and its pseudo-instructions (R74), a tool beside the
block. What R73 and R74 leave open of the text (DESIGN CHOICE, safe) is log entry 11. -/

namespace Sys2Proof.Machine

/-- One line of a program: a command, RESET (R73), or a pseudo-instruction (R74). -/
inductive AsmLine where
  | instr (i : Instr)
  | reset
  | fill (b n : Nat)
  | send (bs : List Nat)
  deriving DecidableEq, Repr

/-- The presentation of one command; none where it has no word (R65, R73). -/
def assembleInstr (i : Instr) : Option Input := (encode i).map (Input.mk false ·)

/-- The presentations of a line (R73, R74): `FILL b, n` is `n` copies of `SUBMIT b`, `SEND` one SUBMIT per byte in order. The
byte of a `FILL b, 0` must still be one, and a SEND of no byte is nothing (DESIGN CHOICE, log entry 11). -/
def AsmLine.assemble : AsmLine → Option (List Input)
  | .instr i => (assembleInstr i).map ([·])
  | .reset => some [Input.reset]
  | .fill b n => (assembleInstr (.submit b)).map (List.replicate n ·)
  | .send bs => bs.mapM fun b => assembleInstr (.submit b)

/-- The presentations of a program, line after line. -/
def assemble : List AsmLine → Option (List Input)
  | [] => some []
  | l :: ls =>
    match l.assemble, assemble ls with
    | some a, some b => some (a ++ b)
    | _, _ => none

/-- A space or a tab. -/
def isBlank (c : Char) : Bool := c = ' ' || c = '\t'

/-- A text without the blanks at its two ends. -/
def trimBlanks (cs : List Char) : List Char :=
  ((cs.dropWhile isBlank).reverse.dropWhile isBlank).reverse

/-- The value of a digit, hexadecimal ones in either case. -/
def digitValue (c : Char) : Option Nat :=
  let n := c.toNat
  if 48 ≤ n ∧ n ≤ 57 then some (n - 48)
  else if 65 ≤ n ∧ n ≤ 70 then some (n - 55)
  else if 97 ≤ n ∧ n ≤ 102 then some (n - 87)
  else none

/-- Digits read in a base, the most significant first. -/
def readDigits (base : Nat) : List Char → Nat → Option Nat
  | [], acc => some acc
  | c :: cs, acc =>
    match digitValue c with
    | some d => if d < base then readDigits base cs (acc * base + d) else none
    | none => none

/-- A number: `0x` and hexadecimal digits, or decimal digits. R73 gives these two forms for `<byte>`; leading zeros, the case of
the digits and the use for FILL's count are the model's (DESIGN CHOICE, log entry 11). -/
def readNumber : List Char → Option Nat
  | [] => none
  | ['0', 'x'] => none
  | '0' :: 'x' :: ds => readDigits 16 ds 0
  | ds => readDigits 10 ds 0

/-- The pieces of a text between the characters `sep`. -/
def splitAtChar (sep : Char) : List Char → List (List Char)
  | [] => [[]]
  | c :: cs =>
    match splitAtChar sep cs with
    | [] => [[c]]
    | p :: ps => if c = sep then [] :: p :: ps else (c :: p) :: ps

/-- A letter in upper case, since "mnemonics are case-insensitive" (R73). -/
def upper (c : Char) : Char := if 97 ≤ c.toNat ∧ c.toNat ≤ 122 then Char.ofNat (c.toNat - 32) else c

/-- A line with its comment cut off: "`;` starts a comment" (R73). -/
def stripComment (cs : List Char) : List Char := cs.takeWhile (· ≠ ';')

/-- The comma-separated operands of a line, none of them for an empty text. -/
def operandTexts (cs : List Char) : List (List Char) :=
  if trimBlanks cs = [] then [] else (splitAtChar ',' cs).map trimBlanks

/-- A mnemonic, in upper case, with its operands (R73, R74). R74 gives no written form for the count `<n>` of FILL: it is read
as a number in either of the forms R73 gives `<byte>`, of any size (DESIGN CHOICE, log entry 11). -/
def parseParts (name : List Char) (ops : List (List Char)) : Option AsmLine :=
  if name = ['N', 'O', 'P'] ∧ ops = [] then some (.instr .nop)
  else if name = ['F', 'I', 'N', 'I', 'S', 'H'] ∧ ops = [] then some (.instr .finish)
  else if name = ['R', 'E', 'S', 'E', 'T'] ∧ ops = [] then some .reset
  else if name = ['C', 'O', 'N', 'F', 'I', 'G', 'U', 'R', 'E'] ∧ ops = [['r', 'a', 'w']] then some (.instr (.configure .raw))
  else if name = ['C', 'O', 'N', 'F', 'I', 'G', 'U', 'R', 'E'] ∧ ops = [['r', 'l', 'e']] then some (.instr (.configure .rle))
  else if name = ['S', 'U', 'B', 'M', 'I', 'T'] then
    match ops.mapM readNumber with
    | some [b] => some (.instr (.submit b))
    | _ => none
  else if name = ['F', 'I', 'L', 'L'] then
    match ops.mapM readNumber with
    | some [b, n] => some (.fill b n)
    | _ => none
  else if name = ['S', 'E', 'N', 'D'] then
    match ops.mapM readNumber with
    | some (b :: bs) => some (.send (b :: bs))
    | _ => none
  else none

/-- The line a text holds (R73): `some []` for one with nothing but blanks and a comment, none for a text outside the
syntax. -/
def parseLine (cs : List Char) : Option (List AsmLine) :=
  let body := trimBlanks (stripComment cs)
  if body = [] then some []
  else (parseParts ((body.takeWhile (! isBlank ·)).map upper) (operandTexts (body.dropWhile (! isBlank ·)))).map ([·])

/-- A program text, "one command per line" (R73), as presentations on the input ports. -/
def assembleText (cs : List Char) : Option (List Input) :=
  match (splitAtChar '\n' cs).mapM parseLine with
  | some lines => assemble lines.flatten
  | none => none

end Sys2Proof.Machine
end

