-- ==== Sys2Proof/Machine/Instances.lean ====
section
/-! DEFINITION. Several blocks side by side (60_exceptions.md R212): they share no state, and each has its own ports. -/

namespace Sys2Proof.Machine

/-- One step of block `k`; none where there is no block `k` or its step stops. -/
def stepInstance (k : Nat) (blocks : List State) : Option (List State) :=
  match blocks[k]? with
  | none => none
  | some s =>
    match step s with
    | .next t => some (blocks.set k t)
    | .fault _ => none
    | .refused _ => none

end Sys2Proof.Machine
end

