-- ==== Sys2Proof/Machine/RefDecoder.lean ====
section
/-! DEFINITION. The reference decoder (40_datapath.md R112), "a test oracle for the block and not hardware". -/

namespace Sys2Proof.Machine

/-- `decode(s)` of R112: a first byte other than `0xFF` is a literal token; `0xFF` starts an escape token whose bytes 1
and 2 are length and value whatever they hold; none is MALFORMED, an escape token cut short (log entry 12). -/
def refDecode : List Byte → Option (List Byte)
  | [] => some []
  | [b] => if isEsc b then none else some [b]
  | [b, c] => if isEsc b then none else (refDecode [c]).map (b :: ·)
  | b :: l :: v :: rest =>
    if isEsc b then (refDecode rest).map (List.replicate (l.toNat + 1) v ++ ·)
    else (refDecode (l :: v :: rest)).map (b :: ·)

end Sys2Proof.Machine
end

