-- ==== Sys2Proof/Safety.lean ====
section
/-! DEFINITION. What counts as a good end and a failed session, and the tables of the spec that claims are stated against:
the phase transitions (41_commands.md R145) and the output select (40_datapath.md R110). -/

namespace Sys2Proof.Machine

/-- "A session has ended well when FINISH has been accepted (`phase = DONE`, `err_code = 00`)" (R251). -/
abbrev State.EndedWell (s : State) : Prop := s.phase = .done ∧ s.errCode = .none

/-- A fault is recorded (60_exceptions.md R209): "a claim about a session takes 'no fault recorded' as a premise". -/
abbrev State.Faulted (s : State) : Prop := s.phase = .fault

/-- The states a command has its meaning in: a reset step has happened (R243) and R28 holds. -/
abbrev State.Ready (s : State) : Prop := s.hasReset = true ∧ s.Coherent

/-- The phases of a session that goes on: IDLE or ACTIVE (R251: such a session "has not ended"). -/
abbrev State.Open (s : State) : Prop := s.phase = .idle ∨ s.phase = .active

/-- A token a step may output: `Lit(0xFF)` never is (30_encoding.md R72). -/
abbrev Token.Legal (t : Token) : Prop := t ≠ .lit Config.esc

/-- The bytes submitted and not yet output: the pending run, hidden from every port (10_state.md R33). -/
def State.pendingBytes (s : State) : List Byte :=
  if s.runValid then List.replicate s.runCount.toNat s.runValue else []

/-- The phase table of R145 for an admitted command, one row per phase. -/
def phaseAfter (p : Phase) (op : Op) : Phase :=
  match p, op with
  | .idle, .nop => .idle
  | .idle, .configure => .idle
  | .idle, .submit => .active
  | .idle, .finish => .done
  | .active, .nop => .active
  | .active, .configure => .fault
  | .active, .submit => .active
  | .active, .finish => .done
  | .done, .nop => .done
  | .done, .configure => .fault
  | .done, .submit => .fault
  | .done, .finish => .fault
  | .fault, _ => .fault

/-- The select of the output multiplexer for a command with a byte operand that fits, its rows in the order of R110. -/
def selectTable (s : State) (i : Instr) : OutSel :=
  match i with
  | .nop => .none
  | .configure _ => .none
  | .submit b =>
    if s.phase = .fault ∨ s.phase = .done then .none
    else if s.mode = .raw then .raw
    else
      match classify s.runValid s.runValue s.runCount (BitVec.ofNat 8 b) with
      | .start => .none
      | .cont => .none
      | .cap => .run
      | .brk => .run
  | .finish =>
    if s.phase = .fault ∨ s.phase = .done then .none
    else if s.mode = .raw then .none
    else if s.runValid = false then .none
    else .run

end Sys2Proof.Machine
end

