-- ==== Sys2Proof/Certificates/Slice0/Obligations.lean ====
section
/-! DEFINITION. The statements for the provers, from the numbered rules of spec/.

Three clauses recur that no rule of the spec gives. `t.inputs = …`, and the `inputs` that an equation `t = { s with … }` carries
along, are about the model's schedule of presentations (DESIGN CHOICE, log entry 1). `hasReset`, in `State.Ready`, in
`t.hasReset = …` and in such an equation, is the model's own field (DESIGN CHOICE, log entry 4). And where the schedule is
empty, `s.presented` is the idle presentation (DESIGN CHOICE, log entry 2). -/

open Sys2Proof Sys2Proof.Machine

/-! ### Reset -/

/-- R35: the registers and the output port right after reset. -/
def Obligations.ResetStateHoldsResetValues : Prop :=
  State.reset.runValid = false ∧ State.reset.runValue = 0x00 ∧ State.reset.runCount = 0 ∧
  State.reset.mode = .raw ∧ State.reset.phase = .idle ∧ State.reset.errCode = .none ∧
  State.reset.token = .noTok ∧ State.reset.status = 0 ∧ core.reset = State.reset

/-- R240, R67: a step with `rst = 1` restores every reset value and outputs no token, from every state (FAULT, a state before
the first reset and a state that breaks R28 among them) and whatever `cmd` holds; R241: the state it leaves is the same
whatever the earlier session left, for the same presentations to come and whatever `cmd` holds. The clause on `inputs` is
about the model's schedule (DESIGN CHOICE, log entry 1). -/
def Obligations.ResetStepRestoresResetValues : Prop :=
  ∀ (s : State) (cmd : CmdWord) (rest : List Input), s.inputs = ⟨true, cmd⟩ :: rest →
    ∃ t, step s = .next t ∧ t.runValid = false ∧ t.runValue = 0x00 ∧ t.runCount = 0 ∧ t.mode = .raw ∧ t.phase = .idle ∧
      t.errCode = .none ∧ t.token = .noTok ∧ t.inputs = rest ∧
      ∀ (u : State) (cmd' : CmdWord), u.inputs = ⟨true, cmd'⟩ :: rest → step u = .next t

/-- R243, through the model's own field `hasReset` (log entry 4): a command not preceded by a reset is refused, and a reset
step is taken. -/
def Obligations.CommandBeforeResetRefused : Prop :=
  ∀ (s : State), s.hasReset = false →
    (∀ i : Instr, exec i s = .refused .beforeReset) ∧
    (∀ (cmd : CmdWord) (rest : List Input), s.inputs = ⟨true, cmd⟩ :: rest → ∃ t, step s = .next t ∧ t.hasReset = true)

/-! ### Command words -/

/-- R68: the words of the commands, and the words that are none because a reserved bit is set. -/
def Obligations.WordsOfTheCommandTable : Prop :=
  decode 0x000 = .ok .nop ∧ (∀ b : Byte, decode (0x100 + b.setWidth 10) = .ok (.submit b.toNat)) ∧
  decode 0x200 = .ok .finish ∧ decode 0x300 = .ok (.configure .raw) ∧ decode 0x301 = .ok (.configure .rle) ∧
  ∀ w : CmdWord,
    (0x001 ≤ w.toNat ∧ w.toNat ≤ 0x0FF) ∨ (0x201 ≤ w.toNat ∧ w.toNat ≤ 0x2FF) ∨ (0x302 ≤ w.toNat ∧ w.toNat ≤ 0x3FF) →
    reservedBits w ≠ 0

/-- R65: a word with a reserved bit of R63 or R64 set is refused by the decoder and by the step. That the step refuses it in
every state, ahead of every check of the state (in FAULT, before the first reset and outside R28 too), is the model's choice
(DEDUCED, log entry 5): R131 tests FAULT before the reserved bits, and R65 names no phase. -/
def Obligations.ReservedBitsWordRefused : Prop :=
  ∀ w : CmdWord,
    ((w.extractLsb' 8 2 = 0 ∨ w.extractLsb' 8 2 = 2) ∧ w.extractLsb' 0 8 ≠ 0) ∨
      (w.extractLsb' 8 2 = 3 ∧ w.extractLsb' 1 7 ≠ 0) →
    ∃ why, decode w = .error why ∧
      ∀ (s : State) (rest : List Input), s.inputs = ⟨false, w⟩ :: rest → step s = .refused (.reservedBits why)

/-- R65: the hardware runs a word with a reserved bit set as the same word with those bits 0, which keeps `op`, all of a
SUBMIT word and bit 0 of a CONFIGURE word; and wherever the model's step answers a next state the hardware's does so too. -/
def Obligations.HardwareIgnoresReservedBits : Prop :=
  (∀ w : CmdWord,
    decode (clearReserved w) = .ok (decodeIgnoring w) ∧
    (clearReserved w).extractLsb' 8 2 = w.extractLsb' 8 2 ∧
    (w.extractLsb' 8 2 = 1 → clearReserved w = w) ∧
    (w.extractLsb' 8 2 = 3 →
      (clearReserved w).extractLsb' 0 1 = w.extractLsb' 0 1 ∧ (clearReserved w).extractLsb' 1 7 = 0) ∧
    (w.extractLsb' 8 2 = 0 ∨ w.extractLsb' 8 2 = 2 → (clearReserved w).extractLsb' 0 8 = 0)) ∧
  ∀ (inp : Input) (s t : State), stepInput inp s = .next t → stepInputHardware inp s = .next t

/-- R65, spec/opcode_table.json: a word lies under a row's match and mask exactly when it decodes to that row's command. -/
def Obligations.TableRowsMatchTheDecoder : Prop :=
  ∀ r ∈ opcodeTable, ∀ w : CmdWord, r.covers w = true ↔ ∃ i, decode w = .ok i ∧ i.op = r.op

/-- R61 to R64: for every well-formed command, decoding its word gives it back. -/
def Obligations.DecodeOfEncode : Prop :=
  ∀ i : Instr, i.wellFormed = true → ∃ w, encode i = some w ∧ decode w = .ok i

/-- R61 to R65: a word the decoder admits spells a well-formed command and is that command's only word. -/
def Obligations.EncodeOfDecode : Prop :=
  ∀ (w : CmdWord) (i : Instr), decode w = .ok i → i.wellFormed = true ∧ encode i = some w

/-! ### The step -/

/-- R131: with `rst = 0` and an admitted word presented, the step is the decoded command's meaning, the presentation taken. -/
def Obligations.StepRunsTheDecodedCommand : Prop :=
  ∀ (s : State) (w : CmdWord) (rest : List Input) (i : Instr),
    s.inputs = ⟨false, w⟩ :: rest → decode w = .ok i → step s = exec i { s with inputs := rest }

/-- The model's choice (log entry 2, from R132): a host with nothing to present idles. -/
def Obligations.EmptyScheduleStepsAsNop : Prop :=
  ∀ s : State, s.inputs = [] → step s = exec .nop s

/-- R66, R131: every admitted word completes in every phase: whether a command is accepted depends on the phase, and a command
that is not accepted completes as a fault entry. The clauses on `hasReset` and `inputs` are about the model's own field
(DESIGN CHOICE, log entry 4) and its schedule (DESIGN CHOICE, log entry 1), not about these rules. -/
def Obligations.AdmittedPresentationCompletes : Prop :=
  ∀ (s : State) (w : CmdWord) (rest : List Input) (i : Instr), s.Ready → s.inputs = ⟨false, w⟩ :: rest → decode w = .ok i →
    ∃ t, step s = .next t ∧ t.inputs = rest ∧ t.hasReset = true

/-- R28, its last sentence: a state that breaks an invariant has no meaning and a command in it is refused. -/
def Obligations.UnreachableStateRefused : Prop :=
  ∀ (i : Instr) (s : State), s.hasReset = true → ¬ s.Coherent → exec i s = .refused .unreachableState

/-! ### NOP and CONFIGURE -/

/-- R132: NOP completes in every phase, writes no register and outputs no token. -/
def Obligations.NopChangesNothing : Prop :=
  ∀ s : State, s.Ready → exec .nop s = .next { s with token := .noTok }

/-- R133: CONFIGURE writes the mode in IDLE, any number of times, and faults with SESSION_STATE in ACTIVE and DONE, even when
it names the mode already held. -/
def Obligations.ConfigureWritesModeInIdleOnly : Prop :=
  ∀ (m : Mode) (s : State), s.Ready →
    (s.phase = .idle → exec (.configure m) s = .next { s with mode := m, token := .noTok }) ∧
    (s.phase = .active ∨ s.phase = .done →
      exec (.configure m) s = .next { s with phase := .fault, errCode := .sessionState, token := .noTok })

/-! ### SUBMIT -/

/-- R135: in raw mode the byte is output at once, unchanged, and the run registers are not written. -/
def Obligations.SubmitRawOutputsTheByte : Prop :=
  ∀ (b : Byte) (s : State), s.Ready → s.Open → s.mode = .raw →
    exec (.submit b.toNat) s = .next { s with phase := .active, token := .raw b }

/-- R136: in rle mode with no run pending a run starts and nothing is output; this is the first SUBMIT of the session. -/
def Obligations.SubmitStartsARun : Prop :=
  ∀ (b : Byte) (s : State), s.Ready → s.Open → s.mode = .rle → s.runValid = false →
    s.phase = .idle ∧
    exec (.submit b.toNat) s =
      .next { s with runValid := true, runValue := b, runCount := 1, phase := .active, token := .noTok }

/-- R137: the run's own byte below the cap adds one to the count, without wrapping, and nothing is output. -/
def Obligations.SubmitContinuesTheRun : Prop :=
  ∀ s : State, s.Ready → s.Open → s.mode = .rle → s.runValid = true → s.runCount.toNat < 256 →
    exec (.submit s.runValue.toNat) s =
      .next { s with runCount := s.runCount + 1, phase := .active, token := .noTok } ∧
    (s.runCount + 1).toNat = s.runCount.toNat + 1 ∧ 2 ≤ (s.runCount + 1).toNat ∧ (s.runCount + 1).toNat ≤ 256

/-- R138: the run's own byte at 256 outputs the escape token of the 256 earlier bytes and starts a run of 1. -/
def Obligations.SubmitAtTheCapEmits : Prop :=
  ∀ s : State, s.Ready → s.Open → s.mode = .rle → s.runValid = true → s.runCount.toNat = 256 →
    exec (.submit s.runValue.toNat) s =
      .next { s with runCount := 1, phase := .active, token := .esc 0xFF s.runValue } ∧
    (Token.esc 0xFF s.runValue).bytes = [0xFF, 0xFF, s.runValue]

/-- R139: another byte flushes the pending run on the pre-step values and becomes a run of 1. -/
def Obligations.SubmitBreaksTheRun : Prop :=
  ∀ (b : Byte) (s : State), s.Ready → s.Open → s.mode = .rle → s.runValid = true → b ≠ s.runValue →
    exec (.submit b.toNat) s =
      .next { s with runValue := b, runCount := 1, phase := .active, token := tokfmt s.runValue s.runCount } ∧
    (s.runCount = 1 → s.runValue ≠ 0xFF → (tokfmt s.runValue s.runCount).bytes = [s.runValue]) ∧
    (s.runCount = 1 → s.runValue = 0xFF → (tokfmt s.runValue s.runCount).bytes = [0xFF, 0x00, 0xFF]) ∧
    (s.runCount = 256 → (tokfmt s.runValue s.runCount).bytes = [0xFF, 0xFF, s.runValue])

/-- R140: one SUBMIT outputs at most one token, in rle mode never one that covers the byte just submitted: it is the token of
the pre-step run, the same for every byte that leaves that run. -/
def Obligations.SubmitOutputsTheEarlierRunOnly : Prop :=
  ∀ (b : Byte) (s t : State), exec (.submit b.toNat) s = .next t →
    (s.mode = .raw → s.Open → t.token = .raw b) ∧
    (s.mode = .rle → t.token = .noTok ∨ (s.runValid = true ∧ t.token = tokfmt s.runValue s.runCount))

/-- R202: an operand above 255 raises INVALID_BYTE by the fault entry and is never truncated; the step, whose words hold only
0..255, never raises it. -/
def Obligations.InvalidByteOnlyFromAWideOperand : Prop :=
  (∀ (b : Nat) (s : State), s.Ready → s.Open → 255 < b →
    exec (.submit b) s = .next { s with phase := .fault, errCode := .invalidByte, token := .noTok }) ∧
  ∀ s t : State, step s = .next t → t.errCode = .invalidByte → s.errCode = .invalidByte

/-! ### FINISH -/

/-- R142: in rle mode with a run pending FINISH outputs the run's token on the pre-step values and clears the run registers. -/
def Obligations.FinishFlushesThePendingRun : Prop :=
  ∀ s : State, s.Ready → s.Open → s.mode = .rle → s.runValid = true →
    exec .finish s = .next
      { s with runValid := false, runValue := 0x00, runCount := 0, phase := .done, token := tokfmt s.runValue s.runCount }

/-- R143: in raw mode FINISH outputs nothing and writes only the phase. -/
def Obligations.FinishRawOutputsNothing : Prop :=
  ∀ s : State, s.Ready → s.Open → s.mode = .raw → exec .finish s = .next { s with phase := .done, token := .noTok }

/-- R144: FINISH with no byte submitted is accepted in both modes and outputs nothing. -/
def Obligations.FinishWithoutBytesAccepted : Prop :=
  ∀ s : State, s.Ready → s.phase = .idle → exec .finish s = .next { s with phase := .done, token := .noTok }

/-! ### Errors -/

/-- R201: what raises SESSION_STATE, and that nothing else does. -/
def Obligations.SessionStateRaisedExactlyBy : Prop :=
  (∀ (i : Instr) (s : State), s.Ready →
    (s.phase = .done ∧ ((∃ b, i = .submit b) ∨ i = .finish)) ∨
      ((s.phase = .active ∨ s.phase = .done) ∧ ∃ m, i = .configure m) →
    exec i s = .next { s with phase := .fault, errCode := .sessionState, token := .noTok }) ∧
  ∀ (i : Instr) (s t : State), exec i s = .next t → s.phase ≠ .fault → t.errCode = .sessionState →
    (s.phase = .done ∧ ((∃ b, i = .submit b) ∨ i = .finish)) ∨
      ((s.phase = .active ∨ s.phase = .done) ∧ ∃ m, i = .configure m)

/-- R203, R204: a command that faults writes `phase` and `err_code` and outputs NoTok, in place of all its other writes and
output; the pending run and the mode are kept. -/
def Obligations.FaultEntryIsPrecise : Prop :=
  ∀ (i : Instr) (s t : State), exec i s = .next t → s.phase ≠ .fault → t.phase = .fault →
    ∃ code, (code = .sessionState ∨ code = .invalidByte) ∧
      t = { s with phase := .fault, errCode := code, token := .noTok }

/-- R205: in FAULT every command has no effect and outputs NoTok, at the meaning and at the step; only reset leaves FAULT. -/
def Obligations.FaultIsStickyUntilReset : Prop :=
  (∀ (i : Instr) (s : State), s.Ready → s.phase = .fault → exec i s = .next { s with token := .noTok }) ∧
  ∀ s t : State, s.phase = .fault → step s = .next t →
    (s.presented.rst = true ∧ t.phase = .idle) ∨
      (s.presented.rst = false ∧ t = { s with token := .noTok, inputs := s.inputs.tail })

/-- R206: within one step reset comes first, then FAULT, then SESSION_STATE, then INVALID_BYTE, then normal execution. -/
def Obligations.ErrorPriority : Prop :=
  ∀ (s : State), s.Ready →
    (s.presented.rst = true → step s = .next s.consumed.doReset) ∧
    (∀ b : Nat, s.phase = .fault → exec (.submit b) s = .next { s with token := .noTok }) ∧
    (∀ b : Nat, s.phase = .done →
      exec (.submit b) s = .next { s with phase := .fault, errCode := .sessionState, token := .noTok }) ∧
    (∀ b : Nat, s.Open → 255 < b →
      exec (.submit b) s = .next { s with phase := .fault, errCode := .invalidByte, token := .noTok }) ∧
    (∀ b : Nat, s.Open → b ≤ 255 → ∃ t, exec (.submit b) s = .next t ∧ t.phase = .active ∧ t.errCode = s.errCode)

/-- R26: `err_code` is written by a fault entry only, once per session, and by reset. -/
def Obligations.ErrCodeKeepsTheFirstError : Prop :=
  ∀ s t : State, step s = .next t → s.presented.rst = false → t.errCode ≠ s.errCode →
    s.errCode = .none ∧ s.phase ≠ .fault ∧ t.phase = .fault ∧
      (t.errCode = .sessionState ∨ t.errCode = .invalidByte)

/-- R203, R205, R207, R209, R51: after a fault no step outputs anything until a reset, and the session stays in FAULT. `n` is
not bounded by the length of the schedule: for the steps past its end the statement rests on the model's choice that a host
with nothing to present idles with `rst = 0` (DESIGN CHOICE, unsafe, log entry 2). -/
def Obligations.FaultEndsTheOutput : Prop :=
  ∀ (n : Nat) (s t : State) (ts : List Token), s.phase = .fault → (∀ inp ∈ s.inputs, inp.rst = false) →
    runTokens n s = .next (t, ts) → outBytes ts = [] ∧ t.phase = .fault ∧ t.errCode = s.errCode

/-! ### Datapath units and ports -/

/-- R100, R101, R102: the byte comparator, the sentinel test and the cap test. -/
def Obligations.ComparatorsTestEquality : Prop :=
  (∀ a b : Byte, eq8 a b = true ↔ ∀ k < 8, a.getLsbD k = b.getLsbD k) ∧
  (∀ v : Byte, isEsc v = eq8 v 0xFF) ∧
  (∀ c : Count, (full c = true ↔ c.toNat = 256) ∧ (c.toNat ≤ 256 → full c = c.getLsbD 8))

/-- R103, R104: the four cases of a byte in rle mode, each exactly where the rule says. -/
def Obligations.ClassifierCases : Prop :=
  ∀ (valid : Bool) (v : Byte) (c : Count) (b : Byte),
    (classify valid v c b = .start ↔ valid = false) ∧
    (classify valid v c b = .cont ↔ valid = true ∧ b = v ∧ c ≠ 256) ∧
    (classify valid v c b = .cap ↔ valid = true ∧ b = v ∧ c = 256) ∧
    (classify valid v c b = .brk ↔ valid = true ∧ b ≠ v) ∧
    (c.toNat ≤ 256 → (c ≠ 256 ↔ c.toNat < 256))

/-- R105: the next `run_count` of a SUBMIT in rle mode by case, the increment never wrapping; FINISH and reset load 0; nothing
else writes the counter. -/
def Obligations.LengthCounterByCase : Prop :=
  (∀ (b : Byte) (s t : State), exec (.submit b.toNat) s = .next t → s.Open → s.mode = .rle →
    (s.runValid = false → t.runCount = 1) ∧
    (s.runValid = true → b = s.runValue → s.runCount.toNat < 256 →
      t.runCount.toNat = s.runCount.toNat + 1 ∧ 2 ≤ t.runCount.toNat ∧ t.runCount.toNat ≤ 256) ∧
    (s.runValid = true → b = s.runValue → s.runCount.toNat = 256 → t.runCount = 1) ∧
    (s.runValid = true → b ≠ s.runValue → t.runCount = 1)) ∧
  (∀ s t : State, exec .finish s = .next t → s.Open → t.runCount = 0) ∧
  (∀ s t : State, step s = .next t → s.presented.rst = true → t.runCount = 0) ∧
  ∀ (i : Instr) (s t : State), exec i s = .next t → t.runCount ≠ s.runCount →
    s.Open ∧ s.mode = .rle ∧ ((∃ b, i = .submit b) ∨ i = .finish)

/-- R106, R107, R108: the flush rule's three cases on its domain, with the selector, and the length byte, which loses nothing
there. -/
def Obligations.TokenFormatFlushRule : Prop :=
  ∀ (v : Byte) (c : Count), 1 ≤ c.toNat → c.toNat ≤ 256 →
    (selLit v c = true ↔ c = 1 ∧ v ≠ 0xFF) ∧
    (selLit v c = true → tokfmt v c = .lit v) ∧ (selLit v c = false → tokfmt v c = .esc (encodedLength c) v) ∧
    (encodedLength c).toNat + 1 = c.toNat ∧
    (c = 1 → encodedLength c = 0x00) ∧ (c = 256 → encodedLength c = 0xFF) ∧ (c = 44 → encodedLength c = 0x2B) ∧
    (c = 1 → v ≠ 0xFF → tokfmt v c = .lit v) ∧
    (c = 1 → v = 0xFF → tokfmt v c = .esc 0x00 0xFF) ∧
    (2 ≤ c.toNat → tokfmt v c = .esc (BitVec.ofNat 8 (c.toNat - 1)) v)

/-- R72, R111, R44: the output port for each token, its unused bytes 0x00, the length 10 never driven; a host that reads
`tok_len` bytes takes exactly the token's bytes. -/
def Obligations.OutputPortShowsTheToken : Prop :=
  (∀ b : Byte, (Token.raw b).drive = ⟨1, b, 0, 0⟩ ∧ (Token.lit b).drive = ⟨1, b, 0, 0⟩) ∧
  (∀ l v : Byte, (Token.esc l v).drive = ⟨3, 0xFF, l, v⟩) ∧ Token.noTok.drive = ⟨0, 0, 0, 0⟩ ∧
  (∀ t : Token, t.drive.tokLen ≠ 2 ∧ t.drive.tokLen.toNat = t.bytes.length ∧ t.drive.read = some t.bytes)

/-- R27: the status port's fields; nothing else of the state is on it. -/
def Obligations.StatusPortFields : Prop :=
  ∀ s : State,
    s.status.extractLsb' 0 2 = s.phase.bits ∧ s.status.extractLsb' 2 1 = s.mode.bit ∧ s.status.extractLsb' 3 2 = s.errCode.bits ∧
    ∀ u : State, (u.status = s.status ↔ u.phase = s.phase ∧ u.mode = s.mode ∧ u.errCode = s.errCode)

/-! ### The whole machine -/

/-- R28: reset meets the invariants. -/
def Obligations.ResetStateIsCoherent : Prop :=
  State.reset.Ready ∧ ∀ s : State, s.doReset.Ready

/-- R28: every step that answers a next state answers one that meets the invariants (from whatever state, since a command in a
state that breaks them is refused), and one after a reset (`hasReset`, the model's own field, log entry 4). -/
def Obligations.StepKeepsCoherence : Prop :=
  ∀ s t : State, step s = .next t → t.Ready

/-- R69, R71, R72: no step outputs the bare sentinel as a literal, raw bytes come in raw mode only, and in rle mode a token's
first byte tells its length. -/
def Obligations.OutputTokensAreLegal : Prop :=
  ∀ s t : State, step s = .next t →
    t.token.Legal ∧ (∀ b, t.token = .raw b → t.mode = .raw) ∧
    (t.mode = .rle → ∀ (x : Byte) (rest : List Byte), t.token.bytes = x :: rest →
      (x = 0xFF → rest.length = 2) ∧ (x ≠ 0xFF → rest = []))

/-- R146: the mode is fixed from the first SUBMIT to the end of the session, and IDLE is re-entered by reset only. -/
def Obligations.ModeFixedOutsideIdle : Prop :=
  ∀ s t : State, step s = .next t → s.presented.rst = false → s.phase ≠ .idle → t.mode = s.mode ∧ t.phase ≠ .idle

/-- R145: the phase after every command in every phase, with the error recorded where FAULT is entered, and after reset. -/
def Obligations.PhaseTransitionTable : Prop :=
  (∀ (i : Instr) (s : State), s.Ready → i.wellFormed = true →
    ∃ t, exec i s = .next t ∧ t.phase = phaseAfter s.phase i.op ∧
      (s.phase ≠ .fault → t.phase = .fault → t.errCode = .sessionState) ∧
      (∀ m, i = .configure m → s.phase = .idle → t.mode = m)) ∧
  ∀ s : State, s.presented.rst = true → ∃ t, step s = .next t ∧ t.phase = .idle

/-- R110: the token of every step is the multiplexer's, by the rule's select table, and no token in a reset step. -/
def Obligations.OutputSelectTable : Prop :=
  (∀ (i : Instr) (s : State), s.Ready → i.wellFormed = true →
    ∃ t, exec i s = .next t ∧ t.token = outMux (selectTable s i) i.byte s.runValue s.runCount) ∧
  ∀ s : State, s.presented.rst = true → ∃ t, step s = .next t ∧ t.token = .noTok

/-- R34: the frame of an accepted command, by register: what NOP, CONFIGURE, SUBMIT and FINISH leave as it was. The clauses on
`hasReset` and `inputs` are about the model's own field (DESIGN CHOICE, log entry 4) and its schedule (DESIGN CHOICE, log entry
1), of which R34 says nothing. -/
def Obligations.AcceptedCommandFrame : Prop :=
  ∀ (i : Instr) (s t : State), exec i s = .next t → t.phase ≠ .fault →
    t.errCode = s.errCode ∧ t.inputs = s.inputs ∧ t.hasReset = s.hasReset ∧
    (i.op ≠ .configure → t.mode = s.mode) ∧
    (i.op = .nop ∨ i.op = .configure → t.phase = s.phase) ∧
    (i.op = .nop ∨ i.op = .configure ∨ s.mode = .raw →
      t.runValid = s.runValid ∧ t.runValue = s.runValue ∧ t.runCount = s.runCount)

/-! ### Sessions -/

/-- R50: before FINISH the tokens output so far decode to a prefix of the bytes submitted, and the pending run is the rest. -/
def Obligations.OutputCoversAPrefix : Prop :=
  ∀ (s : State) (ms : List Mode) (bytes : List Byte), chosenMode ms = .rle →
    ∃ t ts covered, runInputs (streamInputs ms bytes) s = .next (t, ts) ∧
      refDecode (outBytes ts) = some covered ∧ covered ++ t.pendingBytes = bytes

/-- R113: for every finite byte sequence the rle encoding decodes to it and the raw encoding is it. -/
def Obligations.RoundTripLaws : Prop :=
  ∀ (s : State) (bytes : List Byte),
    (∃ out, encodeSession s [.rle] bytes = some out ∧ refDecode out = some bytes) ∧
    encodeSession s [.raw] bytes = some bytes

/-- R244, R251: a session in boot order, with any number of CONFIGUREs the last of which chooses the mode, ends well, and its
output decodes to the bytes submitted (or, in raw mode, is them). `t.inputs = []` is about the model's schedule (DESIGN CHOICE,
log entry 1). -/
def Obligations.BootOrderSessionEndsWell : Prop :=
  ∀ (s : State) (ms : List Mode) (bytes : List Byte),
    ∃ t ts, runInputs (sessionInputs ms bytes) s = .next (t, ts) ∧ t.EndedWell ∧ t.mode = chosenMode ms ∧ t.inputs = [] ∧
      (chosenMode ms = .rle → refDecode (outBytes ts) = some bytes) ∧
      (chosenMode ms = .raw → outBytes ts = bytes)

/-- R114 items 1 and 2: the sizes of the encodings, with the cases of equality. -/
def Obligations.EncodingSizeLaws : Prop :=
  ∀ (s : State) (bytes : List Byte),
    (∃ out, encodeSession s [.raw] bytes = some out ∧ out.length = bytes.length) ∧
    (∃ out, encodeSession s [.rle] bytes = some out ∧ out.length ≤ 3 * bytes.length ∧
      (out.length = 3 * bytes.length ↔ bytes = [] ∨ bytes = [0xFF])) ∧
    encodeSession s [.rle] [] = some [] ∧ encodeSession s [.raw] [] = some []

/-- R114 item 3: the encoding of `n = 256 k + r` copies of one byte, `n >= 1`. -/
def Obligations.EncodingOfOneRun : Prop :=
  ∀ (s : State) (v : Byte) (k r : Nat), r < 256 → 1 ≤ 256 * k + r →
    encodeSession s [.rle] (List.replicate (256 * k + r) v) =
      some ((List.replicate k [(0xFF : Byte), 0xFF, v]).flatten ++
        (if r = 0 then []
         else if r = 1 then (if v = 0xFF then [0xFF, 0x00, 0xFF] else [v])
         else [0xFF, BitVec.ofNat 8 (r - 1), v]))

/-! ### Beside the block -/

/-- R212: a command to one block never changes another, and the block itself does its own step. -/
def Obligations.InstancesShareNothing : Prop :=
  ∀ (k : Nat) (blocks after : List State), stepInstance k blocks = some after →
    (∀ j, j ≠ k → after[j]? = blocks[j]?) ∧
    ∃ s t, blocks[k]? = some s ∧ step s = .next t ∧ after[k]? = some t

/-- R112: the reference decoder by the first byte: a literal, an escape token whatever its bytes 1 and 2 hold, one cut short. -/
def Obligations.ReferenceDecoderByFirstByte : Prop :=
  refDecode [] = some [] ∧
  (∀ (b : Byte) (rest : List Byte), b ≠ 0xFF → refDecode (b :: rest) = (refDecode rest).map (b :: ·)) ∧
  (∀ (l v : Byte) (rest : List Byte),
    refDecode (0xFF :: l :: v :: rest) = (refDecode rest).map (List.replicate (l.toNat + 1) v ++ ·)) ∧
  refDecode [0xFF] = none ∧ ∀ l : Byte, refDecode [0xFF, l] = none

/-- R74: FILL and SEND expand to SUBMITs. R73: the assembler refuses a byte above 255, in SUBMIT, in FILL and wherever it
stands in the list of a SEND. That FILL with such a byte and `n = 0`, which R74 expands to nothing, is refused too, and that a
SEND of no byte expands to nothing, are the model's choices (DESIGN CHOICE, log entry 11). -/
def Obligations.PseudoInstructionsExpand : Prop :=
  (∀ (b : Byte) (n : Nat), (AsmLine.fill b.toNat n).assemble = some (List.replicate n (Input.submit b))) ∧
  (∀ bs : List Byte, (AsmLine.send (bs.map BitVec.toNat)).assemble = some (bs.map Input.submit)) ∧
  (∀ b n : Nat, 255 < b → (AsmLine.instr (.submit b)).assemble = none ∧ (AsmLine.fill b n).assemble = none) ∧
  ∀ bs : List Nat, (∃ b ∈ bs, 255 < b) → (AsmLine.send bs).assemble = none
end

