-- ==== Sys2Proof/Laws/Datapath.lean ====
section
/-! SUPPORT. What each unit of the datapath answers, said once. -/

namespace Sys2Proof.Machine

theorem classify_start {valid : Bool} {v b : Byte} {c : Count} (h : valid = false) :
    classify valid v c b = .start := by simp [classify, h]

theorem classify_cont {valid : Bool} {v : Byte} {c : Count} (h : valid = true) (hc : c ≠ 256) :
    classify valid v c v = .cont := by
  have hf : full c = false := by simpa [full] using hc
  simp [classify, h, eq8, hf]

theorem classify_cap {valid : Bool} {v : Byte} {c : Count} (h : valid = true) (hc : c = 256) :
    classify valid v c v = .cap := by simp [classify, h, eq8, full, hc]

theorem classify_brk {valid : Bool} {v b : Byte} {c : Count} (h : valid = true) (hb : b ≠ v) :
    classify valid v c b = .brk := by simp [classify, h, eq8, hb]

/-- The selector is true for a run of one byte that is not the sentinel (R107). -/
theorem selLit_iff {v : Byte} {c : Count} : selLit v c = true ↔ c = 1 ∧ v ≠ 0xFF := by
  simp [selLit, isEsc, eq8]

theorem tokfmt_of_selLit {v : Byte} {c : Count} (h : c = 1 ∧ v ≠ 0xFF) : tokfmt v c = .lit v := by
  simp [tokfmt, selLit_iff.mpr h]

theorem tokfmt_of_not_selLit {v : Byte} {c : Count} (h : ¬ (c = 1 ∧ v ≠ 0xFF)) :
    tokfmt v c = .esc (encodedLength c) v := by
  have : selLit v c = false := by simpa using mt selLit_iff.mp h
  simp [tokfmt, this]

/-- No flushed token is the bare sentinel (R69). -/
theorem tokfmt_ne_lit_esc (v : Byte) (c : Count) : tokfmt v c ≠ .lit Config.esc := by
  by_cases h : c = 1 ∧ v ≠ 0xFF
  · rw [tokfmt_of_selLit h]
    intro e
    exact h.2 (Token.lit.inj e)
  · rw [tokfmt_of_not_selLit h]
    exact Token.noConfusion

theorem tokfmt_ne_raw (v b : Byte) (c : Count) : tokfmt v c ≠ .raw b := by
  by_cases h : c = 1 ∧ v ≠ 0xFF
  · rw [tokfmt_of_selLit h]
    exact Token.noConfusion
  · rw [tokfmt_of_not_selLit h]
    exact Token.noConfusion

/-- The increment of a count below the cap does not wrap (R105). -/
theorem count_succ_toNat {c : Count} (h : c.toNat < 256) : (c + 1).toNat = c.toNat + 1 := by
  rw [BitVec.toNat_add]
  simp
  omega

/-- The token of a run at the cap (R109). -/
theorem tokfmt_cap (v : Byte) : tokfmt v 256 = .esc 0xFF v := by
  rw [tokfmt_of_not_selLit (by simp)]
  rfl

@[simp] theorem outMux_none (b v : Byte) (c : Count) : outMux .none b v c = .noTok := rfl
@[simp] theorem outMux_raw (b v : Byte) (c : Count) : outMux .raw b v c = .raw b := rfl
@[simp] theorem outMux_run (b v : Byte) (c : Count) : outMux .run b v c = tokfmt v c := rfl

end Sys2Proof.Machine
end

