-- ==== Sys2Proof/Laws/Decode.lean ====
section
/-! SUPPORT. Lemmas of the command word: the fields of a word built from its fields, and what an admitted word is. -/

namespace Sys2Proof

@[simp] theorem Mode.ofBit_bit (m : Mode) : Mode.ofBit m.bit = m := by cases m <;> decide

@[simp] theorem Mode.bit_ofBit (b : BitVec 1) : (Mode.ofBit b).bit = b := by revert b; decide

@[simp] theorem Op.ofBits_bits (o : Op) : Op.ofBits o.bits = o := by cases o <;> decide

@[simp] theorem Op.bits_ofBits (v : BitVec 2) : (Op.ofBits v).bits = v := by revert v; decide

/-- `{op, data}` has `op` in its field. -/
@[simp] theorem opField_append (o : Op) (d : Byte) : opField (o.bits ++ d) = o := by
  have h : BitVec.extractLsb' 8 2 (o.bits ++ d) = o.bits := by
    apply BitVec.eq_of_getLsbD_eq
    intro k hk
    rw [BitVec.getLsbD_extractLsb', BitVec.getLsbD_append]
    simp [hk]
  unfold opField
  exact (congrArg Op.ofBits h).trans (Op.ofBits_bits o)

/-- `{op, data}` has `data` in its field. -/
@[simp] theorem dataField_append (o : Op) (d : Byte) : dataField (o.bits ++ d) = d := by
  apply BitVec.eq_of_getLsbD_eq
  intro k hk
  unfold dataField
  rw [BitVec.getLsbD_extractLsb', BitVec.getLsbD_append]
  simp [hk]

/-- A word is its two fields (R61). -/
theorem word_eq_fields (w : CmdWord) : w = (opField w).bits ++ dataField w := by
  apply BitVec.eq_of_getLsbD_eq
  intro k hk
  rw [BitVec.getLsbD_append]
  by_cases h : k < 8
  · simp [dataField, h]
  · have h8 : 8 + (k - 8) = k := by omega
    have h2 : k - 8 < 2 := by omega
    simp [opField, h, h8, h2]

/-- The decoder admits a word exactly when its reserved bits are 0, and reads it as the hardware does. -/
theorem decode_eq_ok {w : CmdWord} {i : Instr} :
    decode w = .ok i ↔ reservedBits w = 0#8 ∧ decodeIgnoring w = i := by
  unfold decode
  split <;> simp_all

/-- An admitted word belongs to the command of its `op` field. -/
theorem decodeIgnoring_op (w : CmdWord) : (decodeIgnoring w).op = opField w := by
  unfold decodeIgnoring
  cases opField w <;> rfl

/-- Every command the decoder yields is well-formed. -/
theorem decodeIgnoring_wellFormed (w : CmdWord) : (decodeIgnoring w).wellFormed = true := by
  unfold decodeIgnoring
  cases opField w
  case submit =>
    have h := (dataField w).isLt
    simp only [Instr.wellFormed, decide_eq_true_eq]
    show (dataField w).toNat ≤ 255
    omega
  all_goals rfl

/-- A SUBMIT word (R68) decodes to its byte. -/
theorem decode_submit_word (b : Byte) : decode (Op.submit.bits ++ b) = .ok (.submit b.toNat) := by
  simp [decode_eq_ok, reservedBits, reservedMask, decodeIgnoring]

/-- A CONFIGURE word (R68) decodes to its mode. -/
theorem decode_configure_word (m : Mode) :
    decode (Op.configure.bits ++ (0#7 ++ m.bit)) = .ok (.configure m) := by
  cases m <;> decide

end Sys2Proof
end

