-- ==== Sys2Proof/Laws/State.lean ====
section
/-! SUPPORT. One lemma per field per update of the state, so that no later proof unfolds a record update. -/

namespace Sys2Proof.Machine

variable (s : State)

@[simp] theorem State.emit_runValid (t : Token) : (s.emit t).runValid = s.runValid := rfl
@[simp] theorem State.emit_runValue (t : Token) : (s.emit t).runValue = s.runValue := rfl
@[simp] theorem State.emit_runCount (t : Token) : (s.emit t).runCount = s.runCount := rfl
@[simp] theorem State.emit_mode (t : Token) : (s.emit t).mode = s.mode := rfl
@[simp] theorem State.emit_phase (t : Token) : (s.emit t).phase = s.phase := rfl
@[simp] theorem State.emit_errCode (t : Token) : (s.emit t).errCode = s.errCode := rfl
@[simp] theorem State.emit_token (t : Token) : (s.emit t).token = t := rfl
@[simp] theorem State.emit_inputs (t : Token) : (s.emit t).inputs = s.inputs := rfl
@[simp] theorem State.emit_hasReset (t : Token) : (s.emit t).hasReset = s.hasReset := rfl

@[simp] theorem State.setPhase_runValid (p : Phase) : (s.setPhase p).runValid = s.runValid := rfl
@[simp] theorem State.setPhase_runValue (p : Phase) : (s.setPhase p).runValue = s.runValue := rfl
@[simp] theorem State.setPhase_runCount (p : Phase) : (s.setPhase p).runCount = s.runCount := rfl
@[simp] theorem State.setPhase_mode (p : Phase) : (s.setPhase p).mode = s.mode := rfl
@[simp] theorem State.setPhase_phase (p : Phase) : (s.setPhase p).phase = p := rfl
@[simp] theorem State.setPhase_errCode (p : Phase) : (s.setPhase p).errCode = s.errCode := rfl
@[simp] theorem State.setPhase_token (p : Phase) : (s.setPhase p).token = s.token := rfl
@[simp] theorem State.setPhase_inputs (p : Phase) : (s.setPhase p).inputs = s.inputs := rfl
@[simp] theorem State.setPhase_hasReset (p : Phase) : (s.setPhase p).hasReset = s.hasReset := rfl

@[simp] theorem State.setMode_runValid (m : Mode) : (s.setMode m).runValid = s.runValid := rfl
@[simp] theorem State.setMode_runValue (m : Mode) : (s.setMode m).runValue = s.runValue := rfl
@[simp] theorem State.setMode_runCount (m : Mode) : (s.setMode m).runCount = s.runCount := rfl
@[simp] theorem State.setMode_mode (m : Mode) : (s.setMode m).mode = m := rfl
@[simp] theorem State.setMode_phase (m : Mode) : (s.setMode m).phase = s.phase := rfl
@[simp] theorem State.setMode_errCode (m : Mode) : (s.setMode m).errCode = s.errCode := rfl
@[simp] theorem State.setMode_token (m : Mode) : (s.setMode m).token = s.token := rfl
@[simp] theorem State.setMode_inputs (m : Mode) : (s.setMode m).inputs = s.inputs := rfl
@[simp] theorem State.setMode_hasReset (m : Mode) : (s.setMode m).hasReset = s.hasReset := rfl

@[simp] theorem State.setErr_runValid (e : ErrCode) : (s.setErr e).runValid = s.runValid := rfl
@[simp] theorem State.setErr_runValue (e : ErrCode) : (s.setErr e).runValue = s.runValue := rfl
@[simp] theorem State.setErr_runCount (e : ErrCode) : (s.setErr e).runCount = s.runCount := rfl
@[simp] theorem State.setErr_mode (e : ErrCode) : (s.setErr e).mode = s.mode := rfl
@[simp] theorem State.setErr_phase (e : ErrCode) : (s.setErr e).phase = s.phase := rfl
@[simp] theorem State.setErr_errCode (e : ErrCode) : (s.setErr e).errCode = e := rfl
@[simp] theorem State.setErr_token (e : ErrCode) : (s.setErr e).token = s.token := rfl
@[simp] theorem State.setErr_inputs (e : ErrCode) : (s.setErr e).inputs = s.inputs := rfl
@[simp] theorem State.setErr_hasReset (e : ErrCode) : (s.setErr e).hasReset = s.hasReset := rfl

@[simp] theorem State.setRun_runValid (valid : Bool) (v : Byte) (c : Count) : (s.setRun valid v c).runValid = valid := rfl
@[simp] theorem State.setRun_runValue (valid : Bool) (v : Byte) (c : Count) : (s.setRun valid v c).runValue = v := rfl
@[simp] theorem State.setRun_runCount (valid : Bool) (v : Byte) (c : Count) : (s.setRun valid v c).runCount = c := rfl
@[simp] theorem State.setRun_mode (valid : Bool) (v : Byte) (c : Count) : (s.setRun valid v c).mode = s.mode := rfl
@[simp] theorem State.setRun_phase (valid : Bool) (v : Byte) (c : Count) : (s.setRun valid v c).phase = s.phase := rfl
@[simp] theorem State.setRun_errCode (valid : Bool) (v : Byte) (c : Count) : (s.setRun valid v c).errCode = s.errCode := rfl
@[simp] theorem State.setRun_token (valid : Bool) (v : Byte) (c : Count) : (s.setRun valid v c).token = s.token := rfl
@[simp] theorem State.setRun_inputs (valid : Bool) (v : Byte) (c : Count) : (s.setRun valid v c).inputs = s.inputs := rfl
@[simp] theorem State.setRun_hasReset (valid : Bool) (v : Byte) (c : Count) : (s.setRun valid v c).hasReset = s.hasReset := rfl

@[simp] theorem State.consumed_runValid : s.consumed.runValid = s.runValid := rfl
@[simp] theorem State.consumed_runValue : s.consumed.runValue = s.runValue := rfl
@[simp] theorem State.consumed_runCount : s.consumed.runCount = s.runCount := rfl
@[simp] theorem State.consumed_mode : s.consumed.mode = s.mode := rfl
@[simp] theorem State.consumed_phase : s.consumed.phase = s.phase := rfl
@[simp] theorem State.consumed_errCode : s.consumed.errCode = s.errCode := rfl
@[simp] theorem State.consumed_token : s.consumed.token = s.token := rfl
@[simp] theorem State.consumed_inputs : s.consumed.inputs = s.inputs.tail := rfl
@[simp] theorem State.consumed_hasReset : s.consumed.hasReset = s.hasReset := rfl

@[simp] theorem State.present_runValid (inp : Input) : (s.present inp).runValid = s.runValid := rfl
@[simp] theorem State.present_runValue (inp : Input) : (s.present inp).runValue = s.runValue := rfl
@[simp] theorem State.present_runCount (inp : Input) : (s.present inp).runCount = s.runCount := rfl
@[simp] theorem State.present_mode (inp : Input) : (s.present inp).mode = s.mode := rfl
@[simp] theorem State.present_phase (inp : Input) : (s.present inp).phase = s.phase := rfl
@[simp] theorem State.present_errCode (inp : Input) : (s.present inp).errCode = s.errCode := rfl
@[simp] theorem State.present_token (inp : Input) : (s.present inp).token = s.token := rfl
@[simp] theorem State.present_inputs (inp : Input) : (s.present inp).inputs = inp :: s.inputs.tail := rfl
@[simp] theorem State.present_hasReset (inp : Input) : (s.present inp).hasReset = s.hasReset := rfl

@[simp] theorem State.doReset_runValid : s.doReset.runValid = false := rfl
@[simp] theorem State.doReset_runValue : s.doReset.runValue = 0 := rfl
@[simp] theorem State.doReset_runCount : s.doReset.runCount = 0 := rfl
@[simp] theorem State.doReset_mode : s.doReset.mode = .raw := rfl
@[simp] theorem State.doReset_phase : s.doReset.phase = .idle := rfl
@[simp] theorem State.doReset_errCode : s.doReset.errCode = .none := rfl
@[simp] theorem State.doReset_token : s.doReset.token = .noTok := rfl
@[simp] theorem State.doReset_inputs : s.doReset.inputs = s.inputs := rfl
@[simp] theorem State.doReset_hasReset : s.doReset.hasReset = true := rfl

@[simp] theorem State.raise_runValid (code : ErrCode) : (s.raise code).runValid = s.runValid := rfl
@[simp] theorem State.raise_runValue (code : ErrCode) : (s.raise code).runValue = s.runValue := rfl
@[simp] theorem State.raise_runCount (code : ErrCode) : (s.raise code).runCount = s.runCount := rfl
@[simp] theorem State.raise_mode (code : ErrCode) : (s.raise code).mode = s.mode := rfl
@[simp] theorem State.raise_phase (code : ErrCode) : (s.raise code).phase = .fault := rfl
@[simp] theorem State.raise_errCode (code : ErrCode) : (s.raise code).errCode = code := rfl
@[simp] theorem State.raise_token (code : ErrCode) : (s.raise code).token = .noTok := rfl
@[simp] theorem State.raise_inputs (code : ErrCode) : (s.raise code).inputs = s.inputs := rfl
@[simp] theorem State.raise_hasReset (code : ErrCode) : (s.raise code).hasReset = s.hasReset := rfl

end Sys2Proof.Machine
end

