-- ==== Sys2Proof/Laws/Ops.lean ====
section
/-! SUPPORT. What the shared operations and the meanings can do, said once. -/

namespace Sys2Proof.Machine

/-- Everything a command can answer with a next state. -/
theorem command_next {s t : State} {body : State → State} :
    command s body = .next t ↔
      s.Ready ∧ ((s.phase = .fault ∧ t = s.emit .noTok) ∨ (s.phase ≠ .fault ∧ t = body s)) := by
  unfold command
  split
  · rename_i h
    exact ⟨fun e => (nomatch e), fun e => absurd (h.symm.trans e.1.1) Bool.false_ne_true⟩
  · rename_i hr
    have hr' : s.hasReset = true := by simpa using hr
    split
    · rename_i h
      exact ⟨fun e => (nomatch e), fun e => absurd e.1.2 h⟩
    · rename_i hc
      have hc' : s.Coherent := not_not.mp hc
      split
      · rename_i hp
        exact ⟨fun e => ⟨⟨hr', hc'⟩, .inl ⟨hp, (Host.Outcome.next.inj e).symm⟩⟩, fun e =>
          e.2.elim (fun e => congrArg _ e.2.symm) (fun e => absurd hp e.1)⟩
      · rename_i hp
        exact ⟨fun e => ⟨⟨hr', hc'⟩, .inr ⟨hp, (Host.Outcome.next.inj e).symm⟩⟩, fun e =>
          e.2.elim (fun e => absurd e.1 hp) (fun e => congrArg _ e.2.symm)⟩

/-- A command that is ready and not in FAULT has its own effect. -/
theorem command_run {s : State} (body : State → State) (h : s.Ready) (hp : s.phase ≠ .fault) :
    command s body = .next (body s) := command_next.mpr ⟨h, .inr ⟨hp, rfl⟩⟩

/-- A command in FAULT has no effect (R205). -/
theorem command_fault {s : State} (body : State → State) (h : s.Ready) (hp : s.phase = .fault) :
    command s body = .next (s.emit .noTok) := command_next.mpr ⟨h, .inl ⟨hp, rfl⟩⟩

theorem State.Open.ne_fault {s : State} (h : s.Open) : s.phase ≠ .fault := by
  rcases h with h | h <;> simp [h]

theorem State.Open.ne_done {s : State} (h : s.Open) : s.phase ≠ .done := by
  rcases h with h | h <;> simp [h]

/-- The operand of a SUBMIT, both ways (R62, R202). -/
theorem submittedByte_of_le {b : Nat} (h : b ≤ 255) : submittedByte b = some (BitVec.ofNat 8 b) := by
  simp [submittedByte, h]

theorem submittedByte_of_gt {b : Nat} (h : 255 < b) : submittedByte b = none := by
  simp [submittedByte, Nat.not_le.mpr h]

@[simp] theorem submittedByte_toNat (b : Byte) : submittedByte b.toNat = some b := by
  have := b.isLt
  rw [submittedByte_of_le (by omega)]
  simp

/-- Everything SUBMIT of an accepted byte can do (R135 to R139). -/
theorem submitAccepted_cases (s : State) (b : Byte) :
    (s.mode = .raw ∧ submitAccepted s b = (s.setPhase .active).emit (.raw b)) ∨
    (s.mode = .rle ∧ s.runValid = false ∧
      submitAccepted s b = ((s.setPhase .active).setRun true b 1).emit .noTok) ∨
    (s.mode = .rle ∧ s.runValid = true ∧ b = s.runValue ∧ s.runCount ≠ 256 ∧
      submitAccepted s b = ((s.setPhase .active).setRun true b (s.runCount + 1)).emit .noTok) ∨
    (s.mode = .rle ∧ s.runValid = true ∧ b = s.runValue ∧ s.runCount = 256 ∧
      submitAccepted s b = ((s.setPhase .active).setRun true b 1).emit (tokfmt s.runValue s.runCount)) ∨
    (s.mode = .rle ∧ s.runValid = true ∧ b ≠ s.runValue ∧
      submitAccepted s b = ((s.setPhase .active).setRun true b 1).emit (tokfmt s.runValue s.runCount)) := by
  cases hm : s.mode with
  | raw => exact .inl ⟨rfl, by simp [submitAccepted, hm]⟩
  | rle =>
    right
    cases hv : s.runValid with
    | false => exact .inl ⟨rfl, rfl, by simp [submitAccepted, hm, hv, classify_start, foldByte, nextCount, submitSel]⟩
    | true =>
      right
      by_cases hb : b = s.runValue
      · subst hb
        by_cases hc : s.runCount = 256
        · exact .inr (.inl ⟨rfl, rfl, rfl, hc, by
            simp [submitAccepted, hm, hv, classify_cap rfl hc, foldByte, nextCount, submitSel]⟩)
        · exact .inl ⟨rfl, rfl, rfl, hc, by
            simp [submitAccepted, hm, hv, classify_cont rfl hc, foldByte, nextCount, submitSel]⟩
      · exact .inr (.inr ⟨rfl, rfl, hb, by
          simp [submitAccepted, hm, hv, classify_brk rfl hb, foldByte, nextCount, submitSel]⟩)

/-- Everything FINISH can do where it is accepted (R141 to R144). -/
theorem finishAccepted_cases (s : State) :
    (s.mode = .rle ∧ s.runValid = true ∧
      finishAccepted s = ((s.setPhase .done).setRun false 0 0).emit (tokfmt s.runValue s.runCount)) ∨
    (¬ (s.mode = .rle ∧ s.runValid = true) ∧ finishAccepted s = (s.setPhase .done).emit .noTok) := by
  by_cases h : s.mode = .rle ∧ s.runValid = true
  · exact .inl ⟨h.1, h.2, by simp [finishAccepted, h]⟩
  · exact .inr ⟨h, by rw [finishAccepted, if_neg h]⟩

/-- What an accepted SUBMIT writes besides the run registers and the token. -/
theorem submitAccepted_fields (s : State) (b : Byte) :
    (submitAccepted s b).phase = .active ∧ (submitAccepted s b).errCode = s.errCode ∧ (submitAccepted s b).mode = s.mode ∧
    (submitAccepted s b).inputs = s.inputs ∧ (submitAccepted s b).hasReset = s.hasReset := by
  rcases submitAccepted_cases s b with ⟨_, h⟩ | ⟨_, _, h⟩ | ⟨_, _, _, _, h⟩ | ⟨_, _, _, _, h⟩ | ⟨_, _, _, h⟩ <;> simp [h]

/-- What an accepted FINISH writes besides the run registers and the token. -/
theorem finishAccepted_fields (s : State) :
    (finishAccepted s).phase = .done ∧ (finishAccepted s).errCode = s.errCode ∧ (finishAccepted s).mode = s.mode ∧
    (finishAccepted s).inputs = s.inputs ∧ (finishAccepted s).hasReset = s.hasReset := by
  rcases finishAccepted_cases s with ⟨_, _, h⟩ | ⟨_, h⟩ <;> simp [h]

/-- The fault entry with an error keeps the invariants of R28 (R203). -/
theorem raise_coherent {s : State} {code : ErrCode} (h : s.Coherent) (h0 : code ≠ .none) (h1 : code ≠ .reserved) :
    (s.raise code).Coherent := by
  obtain ⟨a, b, c, _, _, _⟩ := h
  exact ⟨a, b, c, by simp, by simp [h0, h1], by simp⟩

/-- Everything a command can do: it is ignored in FAULT, it is NOP, a CONFIGURE in IDLE, an accepted SUBMIT or FINISH, or it
takes the fault entry with SESSION_STATE or INVALID_BYTE. -/
theorem exec_next {i : Instr} {s t : State} (h : exec i s = .next t) :
    s.Ready ∧
    ((s.phase = .fault ∧ t = s.emit .noTok) ∨
     (s.phase ≠ .fault ∧ i = .nop ∧ t = s.emit .noTok) ∨
     (∃ m, i = .configure m ∧ s.phase = .idle ∧ t = (s.setMode m).emit .noTok) ∨
     (∃ b, i = .submit b ∧ s.Open ∧ b ≤ 255 ∧ t = submitAccepted s (BitVec.ofNat 8 b)) ∨
     (i = .finish ∧ s.Open ∧ t = finishAccepted s) ∨
     (((s.phase = .done ∧ ((∃ b, i = .submit b) ∨ i = .finish)) ∨
        ((s.phase = .active ∨ s.phase = .done) ∧ ∃ m, i = .configure m)) ∧ t = s.raise .sessionState) ∨
     (∃ b, i = .submit b ∧ s.Open ∧ 255 < b ∧ t = s.raise .invalidByte)) := by
  cases i with
  | nop =>
    rw [exec, execNop] at h
    obtain ⟨hr, h | h⟩ := command_next.mp h
    · exact ⟨hr, .inl h⟩
    · exact ⟨hr, .inr (.inl ⟨h.1, rfl, h.2⟩)⟩
  | configure m =>
    rw [exec, execConfigure] at h
    obtain ⟨hr, h | ⟨hp, h⟩⟩ := command_next.mp h
    · exact ⟨hr, .inl h⟩
    · refine ⟨hr, ?_⟩
      by_cases hi : s.phase = .idle
      · rw [if_pos hi] at h
        exact .inr (.inr (.inl ⟨m, rfl, hi, h⟩))
      · rw [if_neg hi] at h
        have hd : s.phase = .active ∨ s.phase = .done := by cases hs : s.phase <;> simp_all
        exact .inr (.inr (.inr (.inr (.inr (.inl ⟨.inr ⟨hd, m, rfl⟩, h⟩)))))
  | submit b =>
    rw [exec, execSubmit] at h
    obtain ⟨hr, h | ⟨hp, h⟩⟩ := command_next.mp h
    · exact ⟨hr, .inl h⟩
    · refine ⟨hr, ?_⟩
      by_cases hd : s.phase = .done
      · rw [if_pos hd] at h
        exact .inr (.inr (.inr (.inr (.inr (.inl ⟨.inl ⟨hd, .inl ⟨b, rfl⟩⟩, h⟩)))))
      · rw [if_neg hd] at h
        have ho : s.Open := by unfold State.Open; cases hs : s.phase <;> simp_all
        by_cases hb : b ≤ 255
        · rw [submittedByte_of_le hb] at h
          exact .inr (.inr (.inr (.inl ⟨b, rfl, ho, hb, h⟩)))
        · rw [submittedByte_of_gt (Nat.lt_of_not_le hb)] at h
          exact .inr (.inr (.inr (.inr (.inr (.inr ⟨b, rfl, ho, Nat.lt_of_not_le hb, h⟩)))))
  | finish =>
    rw [exec, execFinish] at h
    obtain ⟨hr, h | ⟨hp, h⟩⟩ := command_next.mp h
    · exact ⟨hr, .inl h⟩
    · refine ⟨hr, ?_⟩
      by_cases hd : s.phase = .done
      · rw [if_pos hd] at h
        exact .inr (.inr (.inr (.inr (.inr (.inl ⟨.inl ⟨hd, .inr rfl⟩, h⟩)))))
      · rw [if_neg hd] at h
        have ho : s.Open := by unfold State.Open; cases hs : s.phase <;> simp_all
        exact .inr (.inr (.inr (.inr (.inl ⟨rfl, ho, h⟩))))

/-- An accepted SUBMIT runs (R134). -/
theorem execSubmit_run {s : State} (b : Byte) (h : s.Ready) (ho : s.Open) :
    exec (.submit b.toNat) s = .next (submitAccepted s b) := by
  rw [exec, execSubmit, command_run _ h ho.ne_fault, if_neg ho.ne_done, submittedByte_toNat]

/-- An accepted FINISH runs (R141). -/
theorem execFinish_run {s : State} (h : s.Ready) (ho : s.Open) :
    exec .finish s = .next (finishAccepted s) := by
  rw [exec, execFinish, command_run _ h ho.ne_fault, if_neg ho.ne_done]

/-- CONFIGURE in IDLE runs (R133). -/
theorem execConfigure_run {s : State} (m : Mode) (h : s.Ready) (hi : s.phase = .idle) :
    exec (.configure m) s = .next ((s.setMode m).emit .noTok) := by
  rw [exec, execConfigure, command_run _ h (by simp [hi]), if_pos hi]

end Sys2Proof.Machine
end

