-- ==== Sys2Proof/Laws/PerInstr.lean ====
section
/-! SUPPORT. Per-instruction lemmas about the commands as syntax: the word of a command has the command's `op` field and no
reserved bit set (30_encoding.md R61, R65). -/

namespace Sys2Proof.Laws.EncodedWord

/-- Every word of the command has its `op` in `cmd[9:8]` and its reserved bits 0. -/
def Statement (i : Instr) : Prop :=
  ∀ w, encode i = some w → opField w = i.op ∧ reservedBits w = 0#8

theorem nop : Statement .nop := by
  rintro w ⟨⟩
  decide

theorem submit (b : Nat) : Statement (.submit b) := by
  intro w h
  simp only [encode] at h
  split at h
  · injection h with h
    subst h
    simp [reservedBits, reservedMask, Instr.op]
  · cases h

theorem finish : Statement .finish := by
  rintro w ⟨⟩
  decide

theorem configure (m : Mode) : Statement (.configure m) := by
  rintro w ⟨⟩
  cases m <;> decide

end Sys2Proof.Laws.EncodedWord
end

