-- ==== Sys2Proof/Laws/Step.lean ====
section
/-! SUPPORT. What a step can do, said once. -/

namespace Sys2Proof.Machine

/-- Everything a step can answer with a next state: a reset, or the meaning of the admitted word presented. -/
theorem step_next {s t : State} (h : step s = .next t) :
    (s.presented.rst = true ∧ t = s.consumed.doReset) ∨
    (s.presented.rst = false ∧ ∃ i, decode s.presented.cmd = .ok i ∧ exec i s.consumed = .next t) := by
  unfold step stepInput at h
  split at h
  · rename_i hr
    exact .inl ⟨hr, by injection h with h; exact h.symm⟩
  · rename_i hr
    split at h
    · cases h
    · rename_i i hd
      exact .inr ⟨by simpa using hr, i, hd, h⟩

/-- Taking the presentation touches no register, so it keeps what `Ready` says. -/
@[simp] theorem ready_consumed (s : State) : s.consumed.Ready ↔ s.Ready := Iff.rfl

/-- A step at a presentation whose word decodes. -/
theorem step_of_decode {s : State} {w : CmdWord} {rest : List Input} {i : Instr} (h : s.inputs = ⟨false, w⟩ :: rest)
    (hd : decode w = .ok i) : step s = exec i s.consumed := by
  simp [step, stepInput, State.presented, h, hd]

end Sys2Proof.Machine
end

