-- ==== Sys2Proof/Laws/Session.lean ====
section
/-! SUPPORT. How runs of steps compose, and the reference decoder by its first byte for tokens. -/

namespace Sys2Proof.Machine

/-- A step and then a run. -/
theorem runTokens_succ {n : Nat} {s t u : State} {ts : List Token} (h : step s = .next t)
    (h2 : runTokens n t = .next (u, ts)) : runTokens (n + 1) s = .next (u, t.token :: ts) := by
  simp [runTokens, h, h2]

/-- A run is its first step and the run after it. -/
theorem runTokens_next {n : Nat} {s u : State} {ts : List Token} (h : runTokens (n + 1) s = .next (u, ts)) :
    ∃ t ts', step s = .next t ∧ runTokens n t = .next (u, ts') ∧ ts = t.token :: ts' := by
  unfold runTokens at h
  split at h
  · cases h
  · cases h
  · rename_i t ht
    split at h
    · cases h
    · cases h
    · rename_i v ts' hr
      cases h
      exact ⟨t, ts', ht, hr, rfl⟩

/-- Two runs one after the other output their tokens one after the other. -/
theorem runTokens_add {n m : Nat} {s t u : State} {ts us : List Token} (h : runTokens n s = .next (t, ts))
    (h2 : runTokens m t = .next (u, us)) : runTokens (n + m) s = .next (u, ts ++ us) := by
  induction n generalizing s ts with
  | zero =>
    cases h
    simpa using h2
  | succ n ih =>
    obtain ⟨v, ts', hs, hr, rfl⟩ := runTokens_next h
    rw [Nat.succ_add]
    exact runTokens_succ hs (ih hr)

@[simp] theorem outBytes_append (ts us : List Token) : outBytes (ts ++ us) = outBytes ts ++ outBytes us := by
  simp [outBytes]

@[simp] theorem outBytes_cons (t : Token) (ts : List Token) : outBytes (t :: ts) = t.bytes ++ outBytes ts := by
  simp [outBytes]

@[simp] theorem outBytes_nil : outBytes [] = [] := rfl

end Sys2Proof.Machine
end

