-- ==== Sys2Proof/Tests/Slice0.lean ====
section
/-! SUPPORT. Tests with expected results from spec/95_test_vectors.md and hand reading of the rules, and a witness for the
hypotheses of each statement. A state is built in the order of 95_test_vectors.md: (phase, mode, run_valid, run_value,
run_count, err_code). -/

namespace Sys2Proof.Tests
open Sys2Proof Sys2Proof.Machine

/-- A state as 95_test_vectors.md writes it, after a reset, with no token and nothing to present. -/
def st (p : Phase) (m : Mode) (valid : Bool) (v : Byte) (c : Count) (e : ErrCode) : State :=
  { runValid := valid, runValue := v, runCount := c, mode := m, phase := p, errCode := e,
    token := .noTok, inputs := [], hasReset := true }

/-- An ACTIVE rle state with the run `(v, c)` pending. -/
def act (v : Byte) (c : Count) : State := st .active .rle true v c .none

/-- `s` with these presentations to come. -/
def withIn (s : State) (ins : List Input) : State := { s with inputs := ins }

/-! ### WellFormed: the ill-formed term of its one check, and the largest operand that fits -/

theorem test_wellFormed_refuses_wide_operand : (Instr.submit 256).wellFormed = false := by decide
theorem test_wellFormed_admits_255 : (Instr.submit 255).wellFormed = true := by decide

/-! ### Decode: words written bit by bit from R61 to R64 -/

theorem test_decode_nop : decode 0b0000000000 = .ok .nop := by decide
theorem test_decode_submit : decode 0b0110100101 = .ok (.submit 0xA5) := by decide
theorem test_decode_submit_ff : decode 0b0111111111 = .ok (.submit 255) := by decide
theorem test_decode_finish : decode 0b1000000000 = .ok .finish := by decide
theorem test_decode_configure_raw : decode 0b1100000000 = .ok (.configure .raw) := by decide
theorem test_decode_configure_rle : decode 0b1100000001 = .ok (.configure .rle) := by decide
/-- The four words of 95_test_vectors.md section 2.5 that a model refuses and the hardware runs. -/
theorem test_decode_reserved :
    decode 0x001 = .error .nopReserved ∧ decode 0x302 = .error .configureReserved ∧
    decode 0x303 = .error .configureReserved ∧ decode 0x2FF = .error .finishReserved := by decide
theorem test_hardware_reserved :
    decodeIgnoring 0x001 = .nop ∧ decodeIgnoring 0x302 = .configure .raw ∧
    decodeIgnoring 0x303 = .configure .rle ∧ decodeIgnoring 0x2FF = .finish := by decide
theorem test_encode :
    encode (.submit 0xA5) = some 0b0110100101 ∧ encode (.configure .rle) = some 0b1100000001 ∧
    encode .finish = some 0b1000000000 ∧ encode .nop = some 0 ∧ encode (.submit 256) = none := by decide
theorem test_decodeTableWord :
    decodeTableWord 16 0x1A5 = some (.submit 0xA5) ∧ decodeTableWord 16 0x301 = some (.configure .rle) ∧
    decodeTableWord 16 0x400 = none := by decide

/-! ### One step each (95_test_vectors.md section 2.5) -/

theorem test_nop_in_done : exec .nop (st .done .rle false 0 0 .none) = .next (st .done .rle false 0 0 .none) := by rfl
theorem test_nop_keeps_the_run : exec .nop (act 0x05 2) = .next (act 0x05 2) := by rfl
theorem test_configure_last_wins :
    exec (.configure .raw) (st .idle .rle false 0 0 .none) = .next (st .idle .raw false 0 0 .none) := by rfl
theorem test_configure_mid_stream :
    exec (.configure .rle) (act 0x05 2) = .next (st .fault .rle true 0x05 2 .sessionState) := by rfl
theorem test_submit_cap :
    exec (.submit 0xAA) (act 0xAA 256) = .next { act 0xAA 1 with token := .esc 0xFF 0xAA } := by rfl
theorem test_submit_break :
    exec (.submit 0x07) (act 0x05 2) = .next { act 0x07 1 with token := .esc 0x01 0x05 } := by rfl
theorem test_finish_run_of_44 :
    exec .finish (act 0xAA 44) = .next { st .done .rle false 0 0 .none with token := .esc 0x2B 0xAA } := by rfl
theorem test_finish_in_done :
    exec .finish (st .done .rle false 0 0 .none) = .next (st .fault .rle false 0 0 .sessionState) := by rfl

/-- A word placed for the next step runs as the first command after reset (raw mode: the byte is output). -/
theorem test_withFetchWord :
    step (State.reset.withFetchWord 16 0x1FF) = .next { st .active .raw false 0 0 .none with token := .raw 0xFF } := by rfl

/-! ### Units, ports and tools (95_test_vectors.md sections 2.1 to 2.4, 2.7; programs of section 3) -/

theorem test_comparator : eq8 0x80 0x00 = false ∧ eq8 0xFE 0xFF = false ∧ isEsc 0xFF = true ∧ isEsc 0x7F = false := by decide
theorem test_classify :
    classify true 0x41 255 0x41 = .cont ∧ classify true 0x41 256 0x41 = .cap ∧ classify true 0x41 256 0x42 = .brk ∧
    classify false 0x00 0 0x00 = .start := by decide
theorem test_tokfmt :
    (tokfmt 0xFE 1).bytes = [0xFE] ∧ (tokfmt 0xFF 1).bytes = [0xFF, 0x00, 0xFF] ∧
    (tokfmt 0x7F 44).bytes = [0xFF, 0x2B, 0x7F] ∧ (tokfmt 0xFF 256).bytes = [0xFF, 0xFF, 0xFF] := by decide
theorem test_outPort : ({ act 0x42 1 with token := .esc 0x02 0x41 } : State).outPort = ⟨3, 0xFF, 0x02, 0x41⟩ := by decide
theorem test_read_reserved_length : OutPort.read ⟨2, 1, 2, 3⟩ = none := by decide
/-- The status words of programs P4 (0x0B) and P5 (0x0F). -/
theorem test_status :
    (st .fault .raw false 0 0 .sessionState).status = 0x0B ∧ (st .fault .rle true 1 1 .sessionState).status = 0x0F := by decide
theorem test_refDecode :
    refDecode [0xFF, 0x02, 0x41, 0x07] = some [0x41, 0x41, 0x41, 0x07] ∧ refDecode [0x07, 0xFF, 0x01] = none ∧
    refDecode [0xFF, 0x00, 0xFF] = some [0xFF] := by decide
theorem test_assembleText :
    assembleText ['s', 'u', 'b', 'm', 'i', 't', ' ', '0', 'x', '0', '5', ' ', ';', 'x', '\n',
      'F', 'I', 'L', 'L', ' ', '7', ',', ' ', '2', '\n', 'F', 'I', 'N', 'I', 'S', 'H'] =
      some [⟨false, 0x105⟩, ⟨false, 0x107⟩, ⟨false, 0x107⟩, ⟨false, 0x200⟩] := by decide
theorem test_assembleText_refuses_256 :
    assembleText ['S', 'U', 'B', 'M', 'I', 'T', ' ', '2', '5', '6'] = none := by decide

/-! ### Witnesses of the statements' hypotheses -/

theorem witness_ResetStepRestoresResetValues :
    (withIn (st .fault .rle true 0x01 1 .sessionState) [⟨true, 0x3FF⟩]).inputs = ⟨true, 0x3FF⟩ :: [] ∧
    (withIn (act 0x41 9) [⟨true, 0x000⟩]).inputs = ⟨true, 0x000⟩ :: [] := by decide
theorem witness_CommandBeforeResetRefused :
    ({ withIn State.reset [⟨true, 0⟩] with hasReset := false } : State).hasReset = false ∧
    ({ withIn State.reset [⟨true, 0⟩] with hasReset := false } : State).inputs = ⟨true, 0⟩ :: [] := by decide
/-- The ends of the three ranges of R68. -/
theorem witness_WordsOfTheCommandTable :
    reservedBits 0x001 ≠ 0 ∧ reservedBits 0x0FF ≠ 0 ∧ reservedBits 0x201 ≠ 0 ∧ reservedBits 0x2FF ≠ 0 ∧
    reservedBits 0x302 ≠ 0 ∧ reservedBits 0x3FF ≠ 0 := by decide
theorem witness_ReservedBitsWordRefused :
    (BitVec.extractLsb' 8 2 (0x001 : CmdWord) = 0 ∧ BitVec.extractLsb' 0 8 (0x001 : CmdWord) ≠ 0) ∧
    (BitVec.extractLsb' 8 2 (0x280 : CmdWord) = 2 ∧ BitVec.extractLsb' 0 8 (0x280 : CmdWord) ≠ 0) ∧
    (BitVec.extractLsb' 8 2 (0x302 : CmdWord) = 3 ∧ BitVec.extractLsb' 1 7 (0x302 : CmdWord) ≠ 0) ∧
    (withIn State.reset [⟨false, 0x302⟩]).inputs = ⟨false, 0x302⟩ :: [] := by decide
theorem witness_HardwareIgnoresReservedBits :
    stepInput ⟨false, 0x301⟩ State.reset = .next (st .idle .rle false 0 0 .none) ∧
    BitVec.extractLsb' 8 2 (0x1FF : CmdWord) = 1 ∧ BitVec.extractLsb' 8 2 (0x303 : CmdWord) = 3 ∧
    BitVec.extractLsb' 8 2 (0x0FF : CmdWord) = 0 ∧ BitVec.extractLsb' 8 2 (0x2FF : CmdWord) = 2 := by
  refine ⟨by rfl, ?_⟩
  decide
theorem witness_DecodeOfEncode :
    Instr.nop.wellFormed = true ∧ (Instr.submit 255).wellFormed = true ∧ Instr.finish.wellFormed = true ∧
    (Instr.configure .rle).wellFormed = true := by decide
theorem witness_EncodeOfDecode : decode 0x1FF = .ok (.submit 255) ∧ decode 0x301 = .ok (.configure .rle) := by decide
theorem witness_StepRunsTheDecodedCommand :
    (withIn (act 0x05 2) [⟨false, 0x107⟩]).inputs = ⟨false, 0x107⟩ :: [] ∧ decode 0x107 = .ok (.submit 7) ∧
    (withIn (act 0x05 2) [⟨false, 0x107⟩]).Ready := by decide
theorem witness_EmptyScheduleStepsAsNop : State.reset.inputs = [] := by decide
theorem witness_UnreachableStateRefused :
    (st .active .rle true 0x05 257 .none).hasReset = true ∧ ¬ (st .active .rle true 0x05 257 .none).Coherent ∧
    ¬ (st .active .rle true 0x05 0 .none).Coherent ∧ ¬ (st .fault .raw false 0 0 .none).Coherent :=
  ⟨by decide, by decide, by decide, by decide⟩
/-- NOP's hypothesis holds in every phase. -/
theorem witness_NopChangesNothing :
    (st .idle .raw false 0 0 .none).Ready ∧ (act 0xFF 256).Ready ∧ (st .done .rle false 0 0 .none).Ready ∧
    (st .fault .rle true 1 1 .sessionState).Ready ∧ (st .fault .rle true 1 1 .invalidByte).Ready :=
  ⟨by decide, by decide, by decide, by decide, by decide⟩
theorem witness_ConfigureWritesModeInIdleOnly :
    ((st .idle .rle false 0 0 .none).Ready ∧ (st .idle .rle false 0 0 .none).phase = .idle) ∧
    ((act 0x05 2).Ready ∧ (act 0x05 2).phase = .active) ∧
    ((st .done .raw false 0 0 .none).Ready ∧ (st .done .raw false 0 0 .none).phase = .done) :=
  ⟨by decide, by decide, by decide⟩
theorem witness_SubmitRawOutputsTheByte :
    (st .idle .raw false 0 0 .none).Ready ∧ (st .idle .raw false 0 0 .none).Open ∧
    (st .active .raw false 0 0 .none).Ready ∧ (st .active .raw false 0 0 .none).Open := by decide
theorem witness_SubmitStartsARun :
    (st .idle .rle false 0 0 .none).Ready ∧ (st .idle .rle false 0 0 .none).Open ∧
    (st .idle .rle false 0 0 .none).mode = .rle ∧ (st .idle .rle false 0 0 .none).runValid = false := by decide
theorem witness_SubmitContinuesTheRun :
    ((act 0xAA 1).Ready ∧ (act 0xAA 1).Open ∧ (act 0xAA 1).runCount.toNat < 256) ∧
    ((act 0xAA 255).Ready ∧ (act 0xAA 255).Open ∧ (act 0xAA 255).mode = .rle ∧ (act 0xAA 255).runValid = true ∧
      (act 0xAA 255).runCount.toNat < 256) := by decide
theorem witness_SubmitAtTheCapEmits :
    (act 0xFF 256).Ready ∧ (act 0xFF 256).Open ∧ (act 0xFF 256).mode = .rle ∧ (act 0xFF 256).runValid = true ∧
    (act 0xFF 256).runCount.toNat = 256 := by decide
/-- The three flushes the statement names: one literal, one sentinel, 256. -/
theorem witness_SubmitBreaksTheRun :
    ((act 0x41 1).Ready ∧ (act 0x41 1).Open ∧ (0x42 : Byte) ≠ (act 0x41 1).runValue ∧ (act 0x41 1).runCount = 1 ∧
      (act 0x41 1).runValue ≠ 0xFF) ∧
    ((act 0xFF 1).Ready ∧ (act 0xFF 1).Open ∧ (0x00 : Byte) ≠ (act 0xFF 1).runValue ∧ (act 0xFF 1).runCount = 1 ∧
      (act 0xFF 1).runValue = 0xFF) ∧
    ((act 0x41 256).Ready ∧ (act 0x41 256).Open ∧ (0x42 : Byte) ≠ (act 0x41 256).runValue ∧
      (act 0x41 256).runCount = 256) :=
  ⟨by decide, by decide, by decide⟩
theorem witness_SubmitOutputsTheEarlierRunOnly :
    (∃ t, exec (.submit (0x07 : Byte).toNat) (act 0x05 2) = .next t) ∧ (act 0x05 2).mode = .rle ∧
    (∃ t, exec (.submit (0x07 : Byte).toNat) State.reset = .next t) ∧ State.reset.mode = .raw ∧ State.reset.Open :=
  ⟨⟨_, rfl⟩, by decide, ⟨_, rfl⟩, by decide⟩
theorem witness_InvalidByteOnlyFromAWideOperand :
    ((act 0x41 1).Ready ∧ (act 0x41 1).Open ∧ 255 < 256) ∧
    (∃ t, step (st .fault .rle true 0x41 1 .invalidByte) = .next t ∧ t.errCode = .invalidByte) :=
  ⟨by decide, _, rfl, rfl⟩
theorem witness_FinishFlushesThePendingRun :
    (act 0x07 1).Ready ∧ (act 0x07 1).Open ∧ (act 0x07 1).mode = .rle ∧ (act 0x07 1).runValid = true := by decide
theorem witness_FinishRawOutputsNothing :
    (st .active .raw false 0 0 .none).Ready ∧ (st .active .raw false 0 0 .none).Open ∧
    (st .active .raw false 0 0 .none).mode = .raw := by decide
theorem witness_FinishWithoutBytesAccepted :
    (st .idle .rle false 0 0 .none).Ready ∧ (st .idle .rle false 0 0 .none).phase = .idle := by decide
/-- Each clause of R201: SUBMIT and FINISH in DONE, CONFIGURE in ACTIVE and DONE; and a step that raised it. -/
theorem witness_SessionStateRaisedExactlyBy :
    ((st .done .rle false 0 0 .none).Ready ∧ (st .done .rle false 0 0 .none).phase = .done) ∧
    ((act 0x05 2).Ready ∧ (act 0x05 2).phase = .active) ∧
    (∃ t, exec (.configure .rle) (act 0x05 2) = .next t ∧ (act 0x05 2).phase ≠ .fault ∧ t.errCode = .sessionState) :=
  ⟨by decide, by decide, _, rfl, by decide, rfl⟩
theorem witness_FaultEntryIsPrecise :
    (∃ t, exec .finish (st .done .rle false 0 0 .none) = .next t ∧ t.phase = .fault) ∧
    (∃ t, exec (.submit 256) (act 0x41 1) = .next t ∧ t.phase = .fault) ∧
    (st .done .rle false 0 0 .none).phase ≠ .fault ∧ (act 0x41 1).phase ≠ .fault :=
  ⟨⟨_, rfl, rfl⟩, ⟨_, rfl, rfl⟩, by decide⟩
theorem witness_FaultIsStickyUntilReset :
    ((st .fault .rle true 1 1 .sessionState).Ready ∧ (st .fault .rle true 1 1 .sessionState).phase = .fault) ∧
    (∃ t, step (withIn (st .fault .rle true 1 1 .sessionState) [⟨false, 0x200⟩]) = .next t) ∧
    (∃ t, step (withIn (st .fault .rle true 1 1 .sessionState) [⟨true, 0x200⟩]) = .next t) :=
  ⟨by decide, ⟨_, rfl⟩, ⟨_, rfl⟩⟩
theorem witness_ErrorPriority :
    ((withIn (st .fault .rle true 1 1 .sessionState) [⟨true, 0x302⟩]).Ready ∧
      (withIn (st .fault .rle true 1 1 .sessionState) [⟨true, 0x302⟩]).presented.rst = true) ∧
    ((st .done .rle false 0 0 .none).Ready ∧ (st .done .rle false 0 0 .none).phase = .done) ∧
    ((act 0x41 1).Ready ∧ (act 0x41 1).Open) :=
  ⟨by decide, by decide, by decide⟩
theorem witness_ErrCodeKeepsTheFirstError :
    (∃ t, step (withIn (act 0x05 2) [⟨false, 0x301⟩]) = .next t ∧ t.errCode ≠ (withIn (act 0x05 2) [⟨false, 0x301⟩]).errCode) ∧
    (withIn (act 0x05 2) [⟨false, 0x301⟩]).presented.rst = false :=
  ⟨⟨_, rfl, by decide⟩, by decide⟩
theorem witness_FaultEndsTheOutput :
    (st .fault .rle true 1 1 .sessionState).phase = .fault ∧
    (∀ inp ∈ (withIn (st .fault .rle true 1 1 .sessionState) [⟨false, 0x200⟩]).inputs, inp.rst = false) ∧
    ∃ t ts, runTokens 1 (withIn (st .fault .rle true 1 1 .sessionState) [⟨false, 0x200⟩]) = .next (t, ts) :=
  ⟨by decide, by decide, _, _, rfl⟩
/-- The domain's two ends, 1 and 256, and 44, with both values of the selector. -/
theorem witness_TokenFormatFlushRule :
    (1 ≤ (1 : Count).toNat ∧ (1 : Count).toNat ≤ 256 ∧ (0xFE : Byte) ≠ 0xFF ∧ selLit 0xFE 1 = true) ∧
    (2 ≤ (256 : Count).toNat ∧ (256 : Count).toNat ≤ 256 ∧ selLit 0xFF 256 = false) ∧
    (1 ≤ (44 : Count).toNat ∧ (44 : Count).toNat ≤ 256 ∧ selLit 0xFF 1 = false) := by decide
/-- Each clause: a run starts, continues at 255, is capped at 256, breaks; FINISH and reset; a step that wrote the counter. -/
theorem witness_LengthCounterByCase :
    (∃ t, exec (.submit (0xAA : Byte).toNat) (st .idle .rle false 0 0 .none) = .next t) ∧
    (st .idle .rle false 0 0 .none).Open ∧
    (∃ t, exec (.submit (0xAA : Byte).toNat) (act 0xAA 255) = .next t ∧ t.runCount ≠ (act 0xAA 255).runCount) ∧
    (∃ t, exec (.submit (0xAA : Byte).toNat) (act 0xAA 256) = .next t) ∧ (act 0xAA 256).runCount.toNat = 256 ∧
    (∃ t, exec (.submit (0xAB : Byte).toNat) (act 0xAA 1) = .next t) ∧ (act 0xAA 1).Open ∧
    (∃ t, exec .finish (act 0xAA 44) = .next t ∧ t.runCount ≠ (act 0xAA 44).runCount) ∧
    (∃ t, step (withIn (act 0x41 9) [⟨true, 0⟩]) = .next t) :=
  ⟨⟨_, rfl⟩, by decide, ⟨_, rfl, by decide⟩, ⟨_, rfl⟩, by decide, ⟨_, rfl⟩, by decide, ⟨_, rfl, by decide⟩, ⟨_, rfl⟩⟩
theorem witness_StepKeepsCoherence :
    (∃ t, step (withIn (act 0xAA 255) [⟨false, 0x1AA⟩]) = .next t) ∧ (∃ t, step State.reset = .next t) :=
  ⟨⟨_, rfl⟩, ⟨_, rfl⟩⟩
/-- A raw byte, a literal and an escape token on the port. -/
theorem witness_OutputTokensAreLegal :
    (∃ t, step (withIn State.reset [⟨false, 0x1FF⟩]) = .next t ∧ t.token = .raw 0xFF) ∧
    (∃ t, step (withIn (act 0x41 1) [⟨false, 0x142⟩]) = .next t ∧ t.mode = .rle ∧ t.token.bytes = [0x41]) ∧
    (∃ t, step (withIn (act 0xFF 1) [⟨false, 0x142⟩]) = .next t ∧ t.mode = .rle ∧ t.token.bytes = [0xFF, 0x00, 0xFF]) :=
  ⟨⟨_, rfl, rfl⟩, ⟨_, rfl, rfl, rfl⟩, ⟨_, rfl, rfl, rfl⟩⟩
theorem witness_ModeFixedOutsideIdle :
    (∃ t, step (withIn (act 0x05 2) [⟨false, 0x300⟩]) = .next t) ∧
    (withIn (act 0x05 2) [⟨false, 0x300⟩]).presented.rst = false ∧ (act 0x05 2).phase ≠ .idle :=
  ⟨⟨_, rfl⟩, by decide⟩
theorem witness_PhaseTransitionTable :
    (act 0x05 2).Ready ∧ (Instr.submit 255).wellFormed = true ∧ (st .idle .raw false 0 0 .none).Ready ∧
    (withIn (act 0x05 2) [⟨true, 0⟩]).presented.rst = true := by decide
theorem witness_OutputSelectTable :
    (act 0x41 256).Ready ∧ (Instr.submit 0x41).wellFormed = true ∧ (Instr.submit 0x42).wellFormed = true ∧
    (withIn (act 0x41 9) [⟨true, 0⟩]).presented.rst = true := by decide
theorem witness_AcceptedCommandFrame :
    (∃ t, exec (.submit 7) (act 0x05 2) = .next t ∧ t.phase ≠ .fault) ∧
    (∃ t, exec (.submit 7) State.reset = .next t ∧ t.phase ≠ .fault) ∧ State.reset.mode = .raw ∧
    (∃ t, exec (.configure .rle) State.reset = .next t ∧ t.phase ≠ .fault) :=
  ⟨⟨_, rfl, by decide⟩, ⟨_, rfl, by decide⟩, rfl, ⟨_, rfl, by decide⟩⟩
theorem witness_OutputCoversAPrefix : chosenMode [.raw, .rle] = .rle := by decide
theorem witness_BootOrderSessionEndsWell : chosenMode [.raw, .rle] = .rle ∧ chosenMode [] = .raw := by decide
theorem witness_EncodingOfOneRun : (44 < 256 ∧ 1 ≤ 256 * 1 + 44) ∧ (0 < 256 ∧ 1 ≤ 256 * 1 + 0) ∧ (1 < 256 ∧ 1 ≤ 256 * 0 + 1) := by
  decide
theorem witness_InstancesShareNothing :
    ∃ after, stepInstance 0 [withIn State.reset [⟨false, 0x301⟩], act 0x05 2] = some after :=
  ⟨_, rfl⟩
theorem witness_ReferenceDecoderByFirstByte : (0xFE : Byte) ≠ 0xFF := by decide
theorem witness_PseudoInstructionsExpand : 255 < 256 ∧ ∃ b ∈ [7, 256], 255 < b := by decide
theorem witness_AdmittedPresentationCompletes :
    (withIn (act 0x05 2) [⟨false, 0x200⟩]).Ready ∧ (withIn (act 0x05 2) [⟨false, 0x200⟩]).inputs = ⟨false, 0x200⟩ :: [] ∧
    decode 0x200 = .ok .finish := by decide

end Sys2Proof.Tests
end

section
/-! PROOFS. The statements of 10_state.md: what reset, every command and every step make of the registers (R26, R28, R34, R35)
and the fields of the status port (R27). -/

namespace Sys2Proof

/-- The encoding of a mode names it (R24). -/
theorem Mode.bit_injective : Function.Injective Mode.bit :=
  Function.LeftInverse.injective Mode.ofBit_bit

namespace Machine

/-! ### The status port (R27) -/

/-- The four phases have four encodings (R25). -/
theorem Phase.bits_injective : Function.Injective Phase.bits := by
  intro p q
  cases p <;> cases q <;> decide

/-- The four error codes have four encodings (R26). -/
theorem ErrCode.bits_injective : Function.Injective ErrCode.bits := by
  intro e f
  cases e <;> cases f <;> decide

theorem State.status_phaseField (s : State) : s.status.extractLsb' 0 2 = s.phase.bits :=
  BitVec.extractLsb'_append_eq_right

theorem State.status_modeField (s : State) : s.status.extractLsb' 2 1 = s.mode.bit :=
  (BitVec.extractLsb'_append_eq_of_le (by decide)).trans BitVec.extractLsb'_append_eq_right

theorem State.status_errField (s : State) : s.status.extractLsb' 3 2 = s.errCode.bits :=
  (BitVec.extractLsb'_append_eq_of_le (by decide)).trans BitVec.extractLsb'_append_eq_left

/-- The three registers on the port are all there is to the status word, and can be read back from it. -/
theorem State.status_eq_iff {u s : State} :
    u.status = s.status ↔ u.phase = s.phase ∧ u.mode = s.mode ∧ u.errCode = s.errCode := by
  constructor
  · intro h
    refine ⟨Phase.bits_injective ?_, Mode.bit_injective ?_, ErrCode.bits_injective ?_⟩
    · rw [← u.status_phaseField, h, s.status_phaseField]
    · rw [← u.status_modeField, h, s.status_modeField]
    · rw [← u.status_errField, h, s.status_errField]
  · rintro ⟨hp, hm, he⟩
    simp only [State.status, hp, hm, he]

/-- Settles O37, from the three fields of the word and the injectivity of their encodings. -/
theorem statusPortFields : Obligations.StatusPortFields := fun s =>
  ⟨s.status_phaseField, s.status_modeField, s.status_errField, fun _ => State.status_eq_iff⟩

/-! ### Reset (R28, R35) -/

/-- A reset from any state leaves the invariants of R28. -/
theorem doReset_ready (s : State) : s.doReset.Ready := by
  simp [State.Ready, State.Coherent]

/-- Reset from the reset state is that state (R35, R240). -/
theorem reset_doReset : State.reset.doReset = State.reset := rfl

/-- Settles O38: both are states after a reset. -/
theorem resetStateIsCoherent : Obligations.ResetStateIsCoherent :=
  ⟨reset_doReset ▸ doReset_ready State.reset, doReset_ready⟩

/-- Settles O1, by evaluating the reset state. -/
theorem resetStateHoldsResetValues : Obligations.ResetStateHoldsResetValues :=
  ⟨rfl, rfl, rfl, rfl, rfl, rfl, rfl, rfl, rfl⟩

/-! ### Commands in a state that breaks R28 -/

/-- The check that every command passes first refuses a state that breaks R28. -/
theorem command_unreachable {s : State} (body : State → State) (hr : s.hasReset = true) (hc : ¬ s.Coherent) :
    command s body = .refused .unreachableState := by
  rw [command, if_neg (by simp [hr]), if_pos hc]

/-- Every command stands behind that check. -/
theorem exec_eq_command (i : Instr) (s : State) : ∃ body, exec i s = command s body := by
  cases i with
  | nop => exact ⟨_, by rw [exec, execNop]⟩
  | submit b => exact ⟨_, by rw [exec, execSubmit]⟩
  | finish => exact ⟨_, by rw [exec, execFinish]⟩
  | configure m => exact ⟨_, by rw [exec, execConfigure]⟩

/-- Settles O13: the check that refuses the state stands in front of every command. -/
theorem unreachableStateRefused : Obligations.UnreachableStateRefused := by
  intro i s hr hc
  obtain ⟨body, he⟩ := exec_eq_command i s
  exact he.trans (command_unreachable body hr hc)

/-! ### The invariants of R28, kept by each command's effect -/

/-- Item 5 of R28, in a state that is not in FAULT. -/
theorem State.Coherent.errCode_eq_none {s : State} (h : s.Coherent) (hp : s.phase ≠ .fault) : s.errCode = .none := by
  obtain ⟨-, -, -, -, ⟨herr, -⟩, -⟩ := h
  exact not_not.mp fun he => hp (herr.mp he)

/-- Item 2 of R28: the length of a pending run. -/
theorem State.Coherent.runCount_range {s : State} (h : s.Coherent) (hv : s.runValid = true) :
    1 ≤ s.runCount.toNat ∧ s.runCount.toNat ≤ 256 := by
  obtain ⟨-, hrange, -⟩ := h
  exact hrange hv

/-- The token on the port is no part of R28. -/
theorem emit_coherent {s : State} {tok : Token} : (s.emit tok).Coherent ↔ s.Coherent := Iff.rfl

/-- CONFIGURE in IDLE, where no run is pending, keeps R28 (R133). -/
theorem setMode_coherent {s : State} (m : Mode) (h : s.Coherent) (hi : s.phase = .idle) : (s.setMode m).Coherent := by
  obtain ⟨hzero, hrange, -, hnorun, herr, -⟩ := h
  exact ⟨hzero, hrange, fun _ => hnorun (.inl hi), hnorun, herr, by simp [hi]⟩

/-- A byte accepted in raw mode leaves an ACTIVE state without a run (R135). -/
theorem setPhase_active_coherent {s : State} (h : s.Coherent) (ho : s.Open) (hm : s.mode = .raw) :
    (s.setPhase .active).Coherent := by
  have he := h.errCode_eq_none ho.ne_fault
  obtain ⟨hzero, hrange, hraw, -, -, -⟩ := h
  exact ⟨hzero, hrange, hraw, by simp, by simp [he], by simp [hm]⟩

/-- A byte accepted in rle mode leaves an ACTIVE state with a run pending, of a length in range (R136 to R139). -/
theorem setRun_active_coherent {s : State} {c : Count} (v : Byte) (h : s.Coherent) (ho : s.Open) (hm : s.mode = .rle)
    (hc : 1 ≤ c.toNat ∧ c.toNat ≤ 256) : ((s.setPhase .active).setRun true v c).Coherent := by
  have he := h.errCode_eq_none ho.ne_fault
  have hc0 : c ≠ 0 := by rintro rfl; simp at hc
  exact ⟨by simpa using hc0, fun _ => hc, by simp [hm], by simp, by simp [he], by simp⟩

/-- FINISH without a pending run keeps R28 (R143, R144). -/
theorem setPhase_done_coherent {s : State} (h : s.Coherent) (ho : s.Open) (hv : s.runValid = false) :
    (s.setPhase .done).Coherent := by
  have he := h.errCode_eq_none ho.ne_fault
  obtain ⟨hzero, hrange, hraw, -, -, -⟩ := h
  exact ⟨hzero, hrange, hraw, fun _ => hv, by simp [he], by simp⟩

/-- Flushing the run clears the run registers (R142). -/
theorem setRun_done_coherent {s : State} (h : s.Coherent) (ho : s.Open) :
    ((s.setPhase .done).setRun false 0 0).Coherent := by
  have he := h.errCode_eq_none ho.ne_fault
  exact ⟨by simp, by simp, by simp, by simp, by simp [he], by simp⟩

/-- An accepted SUBMIT keeps R28: the count is 1 after START, CAP and BREAK, and CONT adds one below the cap. -/
theorem submitAccepted_coherent {s : State} (b : Byte) (h : s.Coherent) (ho : s.Open) : (submitAccepted s b).Coherent := by
  have hone : 1 ≤ (1 : Count).toNat ∧ (1 : Count).toNat ≤ 256 := by decide
  rcases submitAccepted_cases s b with
    ⟨hm, e⟩ | ⟨hm, -, e⟩ | ⟨hm, hv, -, hc, e⟩ | ⟨hm, -, -, -, e⟩ | ⟨hm, -, -, e⟩ <;> rw [e, emit_coherent]
  · exact setPhase_active_coherent h ho hm
  · exact setRun_active_coherent b h ho hm hone
  · obtain ⟨-, hle⟩ := h.runCount_range hv
    have hlt : s.runCount.toNat < 256 := lt_of_le_of_ne hle fun e => hc (BitVec.eq_of_toNat_eq e)
    have hsucc := count_succ_toNat hlt
    exact setRun_active_coherent b h ho hm (by omega)
  · exact setRun_active_coherent b h ho hm hone
  · exact setRun_active_coherent b h ho hm hone

/-- An accepted FINISH keeps R28: the pending run is flushed and cleared, or there was none. -/
theorem finishAccepted_coherent {s : State} (h : s.Coherent) (ho : s.Open) : (finishAccepted s).Coherent := by
  rcases finishAccepted_cases s with ⟨-, -, e⟩ | ⟨hno, e⟩ <;> rw [e, emit_coherent]
  · exact setRun_done_coherent h ho
  · refine setPhase_done_coherent h ho ?_
    obtain ⟨-, -, hraw, -, -, -⟩ := h
    cases hm : s.mode with
    | raw => exact hraw hm
    | rle => simpa [hm] using hno

/-- Every command that answers a next state answers one that meets R28, after a reset. -/
theorem exec_ready {i : Instr} {s t : State} (hx : exec i s = .next t) : t.Ready := by
  obtain ⟨⟨hr, hc⟩, hcase⟩ := exec_next hx
  rcases hcase with ⟨-, rfl⟩ | ⟨-, -, rfl⟩ | ⟨m, -, hi, rfl⟩ | ⟨b, -, ho, -, rfl⟩ | ⟨-, ho, rfl⟩ | ⟨-, rfl⟩ | ⟨-, -, -, -, rfl⟩
  · exact ⟨hr, emit_coherent.mpr hc⟩
  · exact ⟨hr, emit_coherent.mpr hc⟩
  · exact ⟨hr, emit_coherent.mpr (setMode_coherent m hc hi)⟩
  · obtain ⟨-, -, -, -, hreset⟩ := submitAccepted_fields s (BitVec.ofNat 8 b)
    exact ⟨hreset.trans hr, submitAccepted_coherent _ hc ho⟩
  · obtain ⟨-, -, -, -, hreset⟩ := finishAccepted_fields s
    exact ⟨hreset.trans hr, finishAccepted_coherent hc ho⟩
  · exact ⟨hr, raise_coherent hc (by decide) (by decide)⟩
  · exact ⟨hr, raise_coherent hc (by decide) (by decide)⟩

/-- Settles O39: a step is a reset, or a command, which checks R28 first and keeps it. -/
theorem stepKeepsCoherence : Obligations.StepKeepsCoherence := by
  intro s t h
  rcases step_next h with ⟨-, rfl⟩ | ⟨-, i, -, hx⟩
  · exact doReset_ready _
  · exact exec_ready hx

/-! ### The error code and the frame of a command (R26, R34) -/

/-- A command leaves the error code as it was or takes the fault entry from another phase with one of the two errors. -/
theorem exec_errCode {i : Instr} {s t : State} (hx : exec i s = .next t) :
    t.errCode = s.errCode ∨
    (s.phase ≠ .fault ∧ t.phase = .fault ∧ (t.errCode = .sessionState ∨ t.errCode = .invalidByte)) := by
  obtain ⟨-, hcase⟩ := exec_next hx
  rcases hcase with ⟨-, rfl⟩ | ⟨-, -, rfl⟩ | ⟨m, -, -, rfl⟩ | ⟨b, -, -, -, rfl⟩ | ⟨-, -, rfl⟩ | ⟨hp, rfl⟩ | ⟨-, -, ho, -, rfl⟩
  · exact .inl rfl
  · exact .inl rfl
  · exact .inl rfl
  · obtain ⟨-, herr, -⟩ := submitAccepted_fields s (BitVec.ofNat 8 b)
    exact .inl herr
  · obtain ⟨-, herr, -⟩ := finishAccepted_fields s
    exact .inl herr
  · refine .inr ⟨?_, rfl, .inl rfl⟩
    rcases hp with ⟨hd, -⟩ | ⟨ha | hd, -⟩ <;> simp [*]
  · exact .inr ⟨ho.ne_fault, rfl, .inr rfl⟩

/-- Settles O30: outside FAULT the code is NONE by item 5 of R28, so the one command that writes it finds it NONE. -/
theorem errCodeKeepsTheFirstError : Obligations.ErrCodeKeepsTheFirstError := by
  intro s t h hrst hne
  rcases step_next h with ⟨hrst', -⟩ | ⟨-, i, -, hx⟩
  · rw [hrst] at hrst'
    cases hrst'
  · obtain ⟨⟨-, hc⟩, -⟩ := exec_next hx
    rcases exec_errCode hx with hsame | ⟨hp, hfault, hcode⟩
    · exact absurd hsame hne
    · exact ⟨hc.errCode_eq_none hp, hp, hfault, hcode⟩

/-- In raw mode an accepted SUBMIT writes no run register (R135). -/
theorem submitAccepted_run_of_raw {s : State} (b : Byte) (hm : s.mode = .raw) :
    (submitAccepted s b).runValid = s.runValid ∧ (submitAccepted s b).runValue = s.runValue ∧
    (submitAccepted s b).runCount = s.runCount := by
  simp [submitAccepted, hm]

/-- In raw mode an accepted FINISH writes no run register (R143). -/
theorem finishAccepted_run_of_raw {s : State} (hm : s.mode = .raw) :
    (finishAccepted s).runValid = s.runValid ∧ (finishAccepted s).runValue = s.runValue ∧
    (finishAccepted s).runCount = s.runCount := by
  simp [finishAccepted, hm]

/-- Settles O44, command by command; the fault entries leave the statement's premise. -/
theorem acceptedCommandFrame : Obligations.AcceptedCommandFrame := by
  intro i s t hx hnf
  obtain ⟨-, hcase⟩ := exec_next hx
  rcases hcase with
    ⟨-, rfl⟩ | ⟨-, -, rfl⟩ | ⟨m, rfl, -, rfl⟩ | ⟨b, rfl, -, -, rfl⟩ | ⟨rfl, -, rfl⟩ | ⟨-, rfl⟩ | ⟨-, -, -, -, rfl⟩
  · simp
  · simp
  · simp [Instr.op]
  · obtain ⟨-, herr, hmode, hin, hreset⟩ := submitAccepted_fields s (BitVec.ofNat 8 b)
    exact ⟨herr, hin, hreset, fun _ => hmode, by simp [Instr.op],
      by simpa [Instr.op] using submitAccepted_run_of_raw _⟩
  · obtain ⟨-, herr, hmode, hin, hreset⟩ := finishAccepted_fields s
    exact ⟨herr, hin, hreset, fun _ => hmode, by simp [Instr.op],
      by simpa [Instr.op] using finishAccepted_run_of_raw⟩
  · exact absurd rfl hnf
  · exact absurd rfl hnf

end Machine
end Sys2Proof
end

section
/-! PROOFS. The statements of 20_memory.md: what a session has output and the run it still holds cover the bytes submitted
(R50, R33, R246). -/

namespace Sys2Proof.Machine

/-! ### The reference decoder on whole tokens (R112) -/

/-- A first byte other than the sentinel is a literal token. -/
theorem refDecode_cons_of_ne {b : Byte} (h : b ≠ 0xFF) (rest : List Byte) :
    refDecode (b :: rest) = (refDecode rest).map (b :: ·) := by
  have hesc : isEsc b = false := by simpa [isEsc, eq8] using h
  match rest with
  | [] => simp [refDecode, hesc]
  | [c] => simp [refDecode, hesc]
  | c :: d :: rest => simp [refDecode, hesc]

/-- The sentinel, a length and a value are an escape token. -/
theorem refDecode_escape (l v : Byte) (rest : List Byte) :
    refDecode (0xFF :: l :: v :: rest) = (refDecode rest).map (List.replicate (l.toNat + 1) v ++ ·) := by
  simp [refDecode, isEsc, eq8]

/-- `out` is made of whole tokens and decodes to `covered`, whatever output follows it. -/
def DecodesTo (out covered : List Byte) : Prop :=
  ∀ rest, refDecode (out ++ rest) = (refDecode rest).map (covered ++ ·)

theorem DecodesTo.refDecode_eq {out covered : List Byte} (h : DecodesTo out covered) :
    refDecode out = some covered := by
  simpa [refDecode] using h []

theorem decodesTo_nil : DecodesTo [] [] := by
  intro rest
  simp

/-- Consecutive output covers consecutive segments (R50). -/
theorem DecodesTo.append {out₁ out₂ covered₁ covered₂ : List Byte} (h₁ : DecodesTo out₁ covered₁)
    (h₂ : DecodesTo out₂ covered₂) : DecodesTo (out₁ ++ out₂) (covered₁ ++ covered₂) := by
  intro rest
  rw [List.append_assoc, h₁, h₂]
  simp [Function.comp_def]

/-- On the encoder's domain the encoded length is the run's length less one (R108). -/
theorem encodedLength_toNat {c : Count} (h1 : 1 ≤ c.toNat) (h2 : c.toNat ≤ 256) :
    (encodedLength c).toNat + 1 = c.toNat := by
  have hsub : (c - 1).toNat = c.toNat - 1 := BitVec.toNat_sub_of_le (by simpa [BitVec.le_def] using h1)
  rw [encodedLength, BitVec.extractLsb'_toNat, hsub, Nat.shiftRight_zero]
  omega

/-- A flushed token decodes to its run (R106). -/
theorem tokfmt_decodesTo {v : Byte} {c : Count} (h1 : 1 ≤ c.toNat) (h2 : c.toNat ≤ 256) :
    DecodesTo (tokfmt v c).bytes (List.replicate c.toNat v) := by
  intro rest
  by_cases h : c = 1 ∧ v ≠ 0xFF
  · obtain ⟨rfl, hv⟩ := h
    rw [tokfmt_of_selLit ⟨rfl, hv⟩]
    exact refDecode_cons_of_ne hv rest
  · rw [tokfmt_of_not_selLit h, ← encodedLength_toNat h1 h2]
    exact refDecode_escape _ v rest

/-! ### The pending run (R33) -/

theorem State.pendingBytes_of_invalid {s : State} (h : s.runValid = false) : s.pendingBytes = [] := by
  simp [State.pendingBytes, h]

theorem State.pendingBytes_of_valid {s : State} (h : s.runValid = true) :
    s.pendingBytes = List.replicate s.runCount.toNat s.runValue := by
  simp [State.pendingBytes, h]

@[simp] theorem State.pendingBytes_emit (s : State) (t : Token) : (s.emit t).pendingBytes = s.pendingBytes := rfl

@[simp] theorem State.pendingBytes_consumed (s : State) : s.consumed.pendingBytes = s.pendingBytes := rfl

@[simp] theorem State.pendingBytes_setRun_valid (s : State) (v : Byte) (c : Count) :
    (s.setRun true v c).pendingBytes = List.replicate c.toNat v := rfl

/-- The token that flushes the pending run decodes to it. -/
theorem flushToken_decodesTo {s : State} (h : s.Coherent) (hv : s.runValid = true) :
    DecodesTo (tokfmt s.runValue s.runCount).bytes s.pendingBytes := by
  obtain ⟨h1, h2⟩ := h.runCount_range hv
  rw [State.pendingBytes_of_valid hv]
  exact tokfmt_decodesTo h1 h2

/-- One byte accepted in rle mode: its token covers the front of the pending run and the byte, and the new pending run is
the rest. START and CONT output nothing, CAP and BREAK the whole old run. -/
theorem submitAccepted_covers {s : State} (b : Byte) (h : s.Coherent) (hm : s.mode = .rle) :
    ∃ covered, DecodesTo (submitAccepted s b).token.bytes covered ∧
      covered ++ (submitAccepted s b).pendingBytes = s.pendingBytes ++ [b] := by
  rcases submitAccepted_cases s b with
    ⟨hraw, -⟩ | ⟨-, hv, e⟩ | ⟨-, hv, hb, hc, e⟩ | ⟨-, hv, -, -, e⟩ | ⟨-, hv, -, e⟩
  · simp [hm] at hraw
  · rw [e, State.pendingBytes_of_invalid hv]
    exact ⟨[], decodesTo_nil, rfl⟩
  · obtain ⟨-, hle⟩ := h.runCount_range hv
    have hlt : s.runCount.toNat < 256 := lt_of_le_of_ne hle fun e => hc (BitVec.eq_of_toNat_eq e)
    refine ⟨[], by rw [e]; exact decodesTo_nil, ?_⟩
    rw [e, State.pendingBytes_of_valid hv, State.pendingBytes_emit, State.pendingBytes_setRun_valid,
      count_succ_toNat hlt, List.replicate_succ', hb, List.nil_append]
  · rw [e]
    exact ⟨s.pendingBytes, flushToken_decodesTo h hv, rfl⟩
  · rw [e]
    exact ⟨s.pendingBytes, flushToken_decodesTo h hv, rfl⟩

/-! ### A run of SUBMITs -/

/-- The state after one accepted SUBMIT per byte, each taking its presentation. -/
def afterSubmits (s : State) : List Byte → State
  | [] => s
  | b :: bytes => afterSubmits (submitAccepted s.consumed b) bytes

/-- The tokens of these SUBMITs, in step order. -/
def submitTokens (s : State) : List Byte → List Token
  | [] => []
  | b :: bytes => (submitAccepted s.consumed b).token :: submitTokens (submitAccepted s.consumed b) bytes

/-- An accepted SUBMIT leaves a state that takes the next one. -/
theorem submitAccepted_ready {s : State} (b : Byte) (h : s.Ready) (ho : s.Open) : (submitAccepted s b).Ready := by
  obtain ⟨-, -, -, -, hreset⟩ := submitAccepted_fields s b
  exact ⟨hreset.trans h.1, submitAccepted_coherent b h.2 ho⟩

theorem submitAccepted_open (s : State) (b : Byte) : (submitAccepted s b).Open := by
  obtain ⟨hphase, -⟩ := submitAccepted_fields s b
  exact .inr hphase

theorem submitAccepted_mode (s : State) (b : Byte) : (submitAccepted s b).mode = s.mode := by
  obtain ⟨-, -, hmode, -⟩ := submitAccepted_fields s b
  exact hmode

theorem submitAccepted_inputs (s : State) (b : Byte) : (submitAccepted s b).inputs = s.inputs := by
  obtain ⟨-, -, -, hin, -⟩ := submitAccepted_fields s b
  exact hin

/-- A presented SUBMIT that is accepted is the step. -/
theorem step_submit {s : State} {b : Byte} {rest : List Input} (h : s.Ready) (ho : s.Open)
    (hin : s.inputs = Input.submit b :: rest) : step s = .next (submitAccepted s.consumed b) :=
  (step_of_decode hin (decode_submit_word b)).trans (execSubmit_run b h ho)

/-- One SUBMIT per byte runs, in both modes, and leaves the schedule after them. -/
theorem runTokens_submits {bytes : List Byte} {rest : List Input} {s : State} (h : s.Ready) (ho : s.Open)
    (hin : s.inputs = bytes.map Input.submit ++ rest) :
    runTokens bytes.length s = .next (afterSubmits s bytes, submitTokens s bytes) ∧
      (afterSubmits s bytes).Ready ∧ (afterSubmits s bytes).Open ∧ (afterSubmits s bytes).mode = s.mode ∧
      (afterSubmits s bytes).inputs = rest := by
  induction bytes generalizing s with
  | nil => exact ⟨rfl, h, ho, rfl, hin⟩
  | cons b bytes ih =>
    have hrest : (submitAccepted s.consumed b).inputs = bytes.map Input.submit ++ rest :=
      (submitAccepted_inputs _ b).trans (congrArg List.tail hin)
    obtain ⟨hrun, hready, hopen, hmode, hleft⟩ :=
      ih (submitAccepted_ready b (s := s.consumed) h ho) (submitAccepted_open _ b) hrest
    exact ⟨runTokens_succ (step_submit h ho hin) hrun, hready, hopen,
      hmode.trans (submitAccepted_mode s.consumed b), hleft⟩

/-- R50 along a run of SUBMITs in rle mode: each token covers the segment after those before it, and the pending run is the
rest. -/
theorem submitTokens_cover {s : State} (bytes : List Byte) (h : s.Ready) (ho : s.Open) (hm : s.mode = .rle) :
    ∃ covered, DecodesTo (outBytes (submitTokens s bytes)) covered ∧
      covered ++ (afterSubmits s bytes).pendingBytes = s.pendingBytes ++ bytes := by
  induction bytes generalizing s with
  | nil => exact ⟨[], decodesTo_nil, by simp [afterSubmits]⟩
  | cons b bytes ih =>
    obtain ⟨first, hdec₁, hcov₁⟩ := submitAccepted_covers b (s := s.consumed) h.2 hm
    obtain ⟨later, hdec₂, hcov₂⟩ :=
      ih (submitAccepted_ready b (s := s.consumed) h ho) (submitAccepted_open _ b)
        ((submitAccepted_mode s.consumed b).trans hm)
    refine ⟨first ++ later, ?_, ?_⟩
    · rw [submitTokens, outBytes_cons]
      exact hdec₁.append hdec₂
    · calc first ++ later ++ (afterSubmits (submitAccepted s.consumed b) bytes).pendingBytes
          = first ++ ((submitAccepted s.consumed b).pendingBytes ++ bytes) := by rw [List.append_assoc, hcov₂]
        _ = s.pendingBytes ++ [b] ++ bytes := by rw [← List.append_assoc, hcov₁, State.pendingBytes_consumed]
        _ = s.pendingBytes ++ b :: bytes := by simp

/-! ### The start of a session: a reset and CONFIGUREs (R244) -/

/-- The block is ready for the first byte of a session in mode `m`, and `rest` is still to be presented. -/
structure State.Booted (s : State) (m : Mode) (rest : List Input) : Prop where
  ready : s.Ready
  idle : s.phase = .idle
  mode_eq : s.mode = m
  inputs_eq : s.inputs = rest

theorem State.Booted.isOpen {s : State} {m : Mode} {rest : List Input} (h : s.Booted m rest) : s.Open := .inl h.idle

/-- No run is pending before the first byte (item 4 of R28). -/
theorem State.Booted.pendingBytes_eq {s : State} {m : Mode} {rest : List Input} (h : s.Booted m rest) :
    s.pendingBytes = [] := by
  obtain ⟨-, -, -, -, hnorun, -⟩ := h.ready
  exact State.pendingBytes_of_invalid (hnorun (.inl h.idle))

/-- A presented reset is the step, from every state. -/
theorem step_reset {s : State} {rest : List Input} (hin : s.inputs = Input.reset :: rest) :
    step s = .next s.consumed.doReset := by
  simp [step, stepInput, State.presented, hin, Input.reset]

theorem consumed_doReset_booted {s : State} {rest : List Input} (hin : s.inputs = Input.reset :: rest) :
    s.consumed.doReset.Booted .raw rest :=
  ⟨doReset_ready _, rfl, rfl, congrArg List.tail hin⟩

/-- A presented CONFIGURE in IDLE is the step. -/
theorem step_configure {s : State} {m m' : Mode} {rest : List Input}
    (h : s.Booted m (Input.configure m' :: rest)) : step s = .next ((s.consumed.setMode m').emit .noTok) :=
  (step_of_decode h.inputs_eq (decode_configure_word m')).trans (execConfigure_run m' h.ready h.idle)

theorem configured_booted {s : State} {m m' : Mode} {rest : List Input}
    (h : s.Booted m (Input.configure m' :: rest)) : ((s.consumed.setMode m').emit .noTok).Booted m' rest :=
  ⟨⟨h.ready.1, emit_coherent.mpr (setMode_coherent m' h.ready.2 h.idle)⟩, h.idle, rfl,
    congrArg List.tail h.inputs_eq⟩

/-- CONFIGUREs in IDLE output nothing, and the last one chooses the mode. -/
theorem runTokens_configures {ms : List Mode} {m : Mode} {rest : List Input} {s : State}
    (h : s.Booted m (ms.map Input.configure ++ rest)) :
    ∃ t ts, runTokens ms.length s = .next (t, ts) ∧ t.Booted (ms.getLastD m) rest ∧ outBytes ts = [] := by
  induction ms generalizing m s with
  | nil => exact ⟨s, [], rfl, h, rfl⟩
  | cons m' ms ih =>
    obtain ⟨t, ts, hrun, hboot, hout⟩ := ih (configured_booted h)
    refine ⟨t, _, runTokens_succ (step_configure h) hrun, ?_, by simpa [Token.bytes] using hout⟩
    rwa [List.getLastD_cons]

/-- A reset and CONFIGUREs output nothing and leave the block ready for the first byte. -/
theorem runTokens_boot {ms : List Mode} {rest : List Input} {s : State}
    (hin : s.inputs = Input.reset :: (ms.map Input.configure ++ rest)) :
    ∃ t ts, runTokens (ms.length + 1) s = .next (t, ts) ∧ t.Booted (chosenMode ms) rest ∧ outBytes ts = [] := by
  obtain ⟨t, ts, hrun, hboot, hout⟩ := runTokens_configures (consumed_doReset_booted hin)
  exact ⟨t, _, runTokens_succ (step_reset hin) hrun, hboot, by simpa [Token.bytes] using hout⟩

/-- The presentations up to FINISH run: the boot without output, then the SUBMITs. -/
theorem runTokens_stream {ms : List Mode} {bytes : List Byte} {rest : List Input} {s : State}
    (hin : s.inputs = streamInputs ms bytes ++ rest) :
    ∃ t ts, t.Booted (chosenMode ms) (bytes.map Input.submit ++ rest) ∧ outBytes ts = [] ∧
      runTokens (streamInputs ms bytes).length s = .next (afterSubmits t bytes, ts ++ submitTokens t bytes) := by
  have hin' : s.inputs = Input.reset :: (ms.map Input.configure ++ (bytes.map Input.submit ++ rest)) := by
    simpa [streamInputs] using hin
  have hlen : (streamInputs ms bytes).length = ms.length + 1 + bytes.length := by
    simp +arith [streamInputs]
  obtain ⟨t, ts, hrun, hboot, hout⟩ := runTokens_boot hin'
  obtain ⟨hsubmits, -⟩ := runTokens_submits hboot.ready hboot.isOpen hboot.inputs_eq
  exact ⟨t, ts, hboot, hout, by rw [hlen]; exact runTokens_add hrun hsubmits⟩

/-- Settles O45, by induction over the bytes: every accepted SUBMIT covers the next segment of the input, and the boot
before them outputs nothing and leaves no run pending. -/
theorem outputCoversAPrefix : Obligations.OutputCoversAPrefix := by
  intro s ms bytes hms
  obtain ⟨t, ts, hboot, hout, hrun⟩ :=
    runTokens_stream (s := { s with inputs := streamInputs ms bytes }) (List.append_nil _).symm
  obtain ⟨covered, hdec, hcov⟩ := submitTokens_cover bytes hboot.ready hboot.isOpen (hboot.mode_eq.trans hms)
  refine ⟨afterSubmits t bytes, _, covered, hrun, ?_, ?_⟩
  · rw [outBytes_append, hout, List.nil_append]
    exact hdec.refDecode_eq
  · rw [hcov, hboot.pendingBytes_eq, List.nil_append]

end Sys2Proof.Machine
end

section
/-! PROOFS. The statements of 30_encoding.md: the command word both ways and the bits the hardware ignores (R61 to R68), the
admitted presentation (R66), the output port and its tokens (R69 to R72), and the program text (R73, R74). -/

namespace Sys2Proof

/-! ### Encode, then decode (R61 to R64) -/

/-- A byte is a well-formed operand, and its word is `{01, b}` (R62). -/
theorem encode_submit (b : Byte) : encode (.submit b.toNat) = some (Op.submit.bits ++ b) := by
  have hb : b.toNat ≤ Config.maxByte := Nat.le_of_lt_succ b.isLt
  rw [encode, if_pos hb, BitVec.ofNat_toNat, BitVec.setWidth_eq]

/-- Any other operand has no word (R73). -/
theorem encode_submit_of_gt {b : Nat} (h : 255 < b) : encode (.submit b) = none :=
  if_neg (Nat.not_le.mpr h)

/-- Settles O8, command by command: the word's fields are what the encoder put there. -/
theorem decodeOfEncode : Obligations.DecodeOfEncode := by
  intro i hwf
  cases i with
  | nop => exact ⟨_, rfl, by decide⟩
  | submit b =>
    have hb : b ≤ 255 := of_decide_eq_true hwf
    obtain ⟨byte, rfl⟩ : ∃ byte : Byte, byte.toNat = b := ⟨BitVec.ofNat 8 b, Nat.mod_eq_of_lt (by omega)⟩
    exact ⟨_, encode_submit byte, decode_submit_word byte⟩
  | finish => exact ⟨_, rfl, by decide⟩
  | configure m => exact ⟨_, rfl, decode_configure_word m⟩

/-! ### The word with its reserved bits 0 (R65) -/

/-- The field `op` names a command exactly when it holds its bits. -/
theorem opField_eq_iff {w : CmdWord} {o : Op} : opField w = o ↔ w.extractLsb' 8 2 = o.bits := by
  constructor
  · rintro rfl
    exact (Op.bits_ofBits _).symm
  · intro h
    rw [opField, h, Op.ofBits_bits]

/-- Two words with the same fields are the same word. -/
theorem word_append_inj {o p : Op} {d e : Byte} : o.bits ++ d = p.bits ++ e ↔ o = p ∧ d = e := by
  constructor
  · intro h
    exact ⟨by simpa using congrArg opField h, by simpa using congrArg dataField h⟩
  · rintro ⟨rfl, rfl⟩
    rfl

theorem opField_clearReserved (w : CmdWord) : opField (clearReserved w) = opField w :=
  opField_append _ _

theorem dataField_clearReserved (w : CmdWord) :
    dataField (clearReserved w) = dataField w &&& ~~~ reservedMask (opField w) :=
  dataField_append _ _

/-- A mask that meets no bit of `d` leaves `d` when it is taken out. -/
theorem and_not_of_and_eq_zero {d m : Byte} (h : d &&& m = 0#8) : d &&& ~~~m = d := by
  have hall : m ||| ~~~m = BitVec.allOnes 8 := by
    ext k hk
    simp
  calc d &&& ~~~m = (d &&& m) ||| (d &&& ~~~m) := by rw [h, BitVec.zero_or]
    _ = d := by rw [← BitVec.and_or_distrib_left, hall, BitVec.and_allOnes]

/-- A word without a reserved bit set is its own cleared word. -/
theorem clearReserved_of_reservedBits {w : CmdWord} (h : reservedBits w = 0#8) : clearReserved w = w := by
  rw [clearReserved, and_not_of_and_eq_zero h, ← word_eq_fields]

/-- The data of a CONFIGURE word without its reserved bits is the bit that names the mode (R63). -/
theorem configureData_clear (d : Byte) : d &&& ~~~ reservedMask .configure = 0#7 ++ d.extractLsb' 0 1 := by
  revert d
  decide

/-- The hardware's reading of any word is the command spelled by the word with its reserved bits 0 (R65). -/
theorem encode_decodeIgnoring (w : CmdWord) : encode (decodeIgnoring w) = some (clearReserved w) := by
  unfold clearReserved decodeIgnoring
  cases opField w with
  | nop => simp [encode, reservedMask]
  | submit => rw [encode_submit, and_not_of_and_eq_zero (m := reservedMask .submit) BitVec.and_zero]
  | finish => simp [encode, reservedMask]
  | configure => simp [encode, configureData_clear]

/-- Settles O9: an admitted word is its own cleared word, which is the encoding of its reading. -/
theorem encodeOfDecode : Obligations.EncodeOfDecode := by
  intro w i h
  obtain ⟨hres, rfl⟩ := decode_eq_ok.mp h
  exact ⟨decodeIgnoring_wellFormed w, by rw [encode_decodeIgnoring, clearReserved_of_reservedBits hres]⟩

/-- The cleared word is admitted, and is read as the hardware reads the word. -/
theorem decode_clearReserved (w : CmdWord) : decode (clearReserved w) = .ok (decodeIgnoring w) := by
  obtain ⟨w', henc, hdec⟩ := decodeOfEncode _ (decodeIgnoring_wellFormed w)
  rw [encode_decodeIgnoring] at henc
  cases henc
  exact hdec

/-- Bits 0 to 7 of a word are those of its data. -/
theorem extractLsb'_dataField (w : CmdWord) {start len : Nat} (h : start + len ≤ 8) :
    (dataField w).extractLsb' start len = w.extractLsb' start len :=
  BitVec.extractLsb'_extractLsb'_of_le h

/-- SUBMIT reserves no bit (R62). -/
theorem clearReserved_of_submit {w : CmdWord} (h : opField w = .submit) : clearReserved w = w :=
  clearReserved_of_reservedBits (by simp [reservedBits, h, reservedMask])

/-- A CONFIGURE word keeps bit 0 of its data only (R63). -/
theorem clearReserved_of_configure {w : CmdWord} (h : opField w = .configure) :
    (clearReserved w).extractLsb' 0 1 = w.extractLsb' 0 1 ∧ (clearReserved w).extractLsb' 1 7 = 0 := by
  have hdata : dataField (clearReserved w) = 0#7 ++ w.extractLsb' 0 1 := by
    rw [dataField_clearReserved, h, configureData_clear, extractLsb'_dataField w (by decide)]
  rw [← extractLsb'_dataField _ (start := 0) (len := 1) (by decide),
    ← extractLsb'_dataField _ (start := 1) (len := 7) (by decide), hdata]
  exact ⟨BitVec.extractLsb'_append_eq_right, BitVec.extractLsb'_append_eq_left⟩

/-- NOP and FINISH reserve all of their data (R64). -/
theorem dataField_clearReserved_of_no_data {w : CmdWord} (h : opField w = .nop ∨ opField w = .finish) :
    dataField (clearReserved w) = 0 := by
  rw [dataField_clearReserved]
  rcases h with h | h <;> simp [h, reservedMask]

namespace Machine

/-- Where the model's step answers a next state, no reserved bit is set or none is looked at, and the hardware agrees. -/
theorem stepInputHardware_of_stepInput {inp : Input} {s t : State} (h : stepInput inp s = .next t) :
    stepInputHardware inp s = .next t := by
  unfold stepInput at h
  unfold stepInputHardware
  split at h
  next hrst => rwa [if_pos hrst]
  next hrst =>
    rw [if_neg hrst]
    split at h
    next => cases h
    next i hdec =>
      obtain ⟨-, rfl⟩ := decode_eq_ok.mp hdec
      exact h

end Machine

/-- Settles O6, from the fields of the cleared word, which is the encoding of the hardware's reading. -/
theorem hardwareIgnoresReservedBits : Obligations.HardwareIgnoresReservedBits := by
  refine ⟨fun w => ⟨decode_clearReserved w, ?_, ?_, ?_, ?_⟩, fun _ _ _ => Machine.stepInputHardware_of_stepInput⟩
  · exact (opField_eq_iff.mp (opField_clearReserved w)).trans (opField_eq_iff.mp rfl).symm
  · intro h
    exact clearReserved_of_submit (opField_eq_iff.mpr h)
  · intro h
    exact clearReserved_of_configure (opField_eq_iff.mpr h)
  · intro h
    exact dataField_clearReserved_of_no_data (h.imp opField_eq_iff.mpr opField_eq_iff.mpr)

/-! ### The opcode table and the words of R68 -/

/-- A row's match is its command's bits with data 0, and its mask is `op` and the reserved bits (R65). -/
theorem opcodeTable_row {r : OpcodeRow} (h : r ∈ opcodeTable) :
    r.matchWord = r.op.bits ++ 0#8 ∧ r.mask = 3#2 ++ reservedMask r.op := by
  revert r
  decide

/-- A word lies under a row exactly when it has the row's `op` and no reserved bit set. -/
theorem covers_iff {r : OpcodeRow} (h : r ∈ opcodeTable) (w : CmdWord) :
    r.covers w = true ↔ opField w = r.op ∧ reservedBits w = 0#8 := by
  obtain ⟨hmatch, hmask⟩ := opcodeTable_row h
  have hmasked : w &&& r.mask = (opField w).bits ++ (dataField w &&& reservedMask r.op) := by
    have hop : (opField w).bits &&& 3#2 = (opField w).bits := BitVec.and_allOnes
    conv_lhs => rw [word_eq_fields w]
    rw [hmask, BitVec.and_append, hop]
  rw [OpcodeRow.covers, beq_iff_eq, hmasked, hmatch, word_append_inj]
  refine and_congr_right fun hop => ?_
  rw [reservedBits, hop]

/-- Settles O7: both sides say that the word has the row's `op` and no reserved bit set. -/
theorem tableRowsMatchTheDecoder : Obligations.TableRowsMatchTheDecoder := by
  intro r hr w
  rw [covers_iff hr w]
  constructor
  · rintro ⟨hop, hres⟩
    exact ⟨_, decode_eq_ok.mpr ⟨hres, rfl⟩, (decodeIgnoring_op w).trans hop⟩
  · rintro ⟨i, hdec, hop⟩
    obtain ⟨hres, rfl⟩ := decode_eq_ok.mp hdec
    exact ⟨(decodeIgnoring_op w).symm.trans hop, hres⟩

/-- The value of a word by its fields. -/
theorem word_toNat (o : Op) (d : Byte) : (o.bits ++ d).toNat = 256 * o.bits.toNat + d.toNat := by
  rw [BitVec.toNat_append, ← Nat.shiftLeft_add_eq_or_of_lt d.isLt, Nat.shiftLeft_eq, Nat.mul_comm]

/-- The value of a SUBMIT word (R68). -/
theorem submit_word_toNat (b : Byte) : (Op.submit.bits ++ b).toNat = 256 + b.toNat :=
  word_toNat .submit b

/-- The words that `cmd = 0x100 + b` spells (R68). -/
theorem submit_word_eq_add (b : Byte) : (0x100 : CmdWord) + b.setWidth 10 = Op.submit.bits ++ b := by
  apply BitVec.eq_of_toNat_eq
  have hlt := b.isLt
  have hbase : (0x100 : CmdWord).toNat = 256 := rfl
  rw [submit_word_toNat, BitVec.toNat_add, BitVec.toNat_setWidth, hbase]
  omega

/-- The values of the words without a reserved bit set (R68). -/
theorem toNat_of_reservedBits {w : CmdWord} (h : reservedBits w = 0#8) :
    w.toNat = 0x000 ∨ (0x100 ≤ w.toNat ∧ w.toNat ≤ 0x1FF) ∨ w.toNat = 0x200 ∨ w.toNat = 0x300 ∨ w.toNat = 0x301 := by
  have henc : encode (decodeIgnoring w) = some w := by
    rw [encode_decodeIgnoring, clearReserved_of_reservedBits h]
  cases hi : decodeIgnoring w with
  | nop =>
    rw [hi] at henc
    cases henc
    decide
  | submit b =>
    rw [hi, encode] at henc
    split at henc
    next hb =>
      cases henc
      have hlt := (BitVec.ofNat 8 b).isLt
      rw [submit_word_toNat]
      omega
    next => cases henc
  | finish =>
    rw [hi] at henc
    cases henc
    decide
  | configure m =>
    rw [hi] at henc
    cases henc
    cases m <;> decide

/-- Settles O4: the words by evaluation, the ranges by the values of the admitted words. -/
theorem wordsOfTheCommandTable : Obligations.WordsOfTheCommandTable := by
  refine ⟨by decide, fun b => ?_, by decide, by decide, by decide, fun w hw hres => ?_⟩
  · rw [submit_word_eq_add, decode_submit_word]
  · have := toNat_of_reservedBits hres
    omega

/-! ### Words with a reserved bit set (R65) -/

/-- The decoder refuses such a word. -/
theorem decode_of_reservedBits_ne {w : CmdWord} (h : reservedBits w ≠ 0#8) :
    decode w = .error (Reject.ofOp (opField w)) :=
  if_neg h

/-- A presented word that the decoder refuses is refused by the step, whatever the state (log entry 5). -/
theorem Machine.step_of_decode_error {s : Machine.State} {w : CmdWord} {rest : List Machine.Input} {why : Reject}
    (hin : s.inputs = ⟨false, w⟩ :: rest) (hdec : decode w = .error why) :
    Machine.step s = .refused (.reservedBits why) := by
  simp [Machine.step, Machine.stepInput, Machine.State.presented, hin, hdec]

/-- The bits that NOP, FINISH and CONFIGURE reserve (R63, R64), one of them set. -/
theorem reservedBits_ne_zero {w : CmdWord}
    (h : ((opField w = .nop ∨ opField w = .finish) ∧ dataField w ≠ 0) ∨
      (opField w = .configure ∧ w.extractLsb' 1 7 ≠ 0)) : reservedBits w ≠ 0#8 := by
  intro hres
  rw [← clearReserved_of_reservedBits hres] at h
  rcases h with ⟨hop, hdata⟩ | ⟨hop, hdata⟩ <;> rw [opField_clearReserved] at hop
  · exact hdata (dataField_clearReserved_of_no_data hop)
  · exact hdata (clearReserved_of_configure hop).2

/-- Settles O5: the step looks at no register before the word, so the decoder's refusal is the step's in every state. -/
theorem reservedBitsWordRefused : Obligations.ReservedBitsWordRefused := by
  intro w h
  have hres : reservedBits w ≠ 0#8 := reservedBits_ne_zero <|
    h.imp (And.imp_left (Or.imp opField_eq_iff.mpr opField_eq_iff.mpr)) (And.imp_left opField_eq_iff.mpr)
  have hdec := decode_of_reservedBits_ne hres
  exact ⟨_, hdec, fun s rest hin => Machine.step_of_decode_error hin hdec⟩

namespace Machine

/-! ### An admitted word completes (R66, R131) -/

/-- Every command answers a next state where it has its meaning, in FAULT too. -/
theorem exec_completes (i : Instr) {s : State} (h : s.Ready) : ∃ t, exec i s = .next t := by
  obtain ⟨body, hx⟩ := exec_eq_command i s
  by_cases hp : s.phase = .fault
  · exact ⟨_, hx.trans (command_fault body h hp)⟩
  · exact ⟨_, hx.trans (command_run body h hp)⟩

/-- No command reads or takes a presentation. -/
theorem exec_inputs {i : Instr} {s t : State} (hx : exec i s = .next t) : t.inputs = s.inputs := by
  obtain ⟨-, hcase⟩ := exec_next hx
  rcases hcase with
    ⟨-, rfl⟩ | ⟨-, -, rfl⟩ | ⟨m, -, -, rfl⟩ | ⟨b, -, -, -, rfl⟩ | ⟨-, -, rfl⟩ | ⟨-, rfl⟩ | ⟨-, -, -, -, rfl⟩
  · rfl
  · rfl
  · rfl
  · exact submitAccepted_inputs s _
  · obtain ⟨-, -, -, hin, -⟩ := finishAccepted_fields s
    exact hin
  · rfl
  · rfl

/-- Settles O12: the step is the command on the schedule's rest, and no command stops in a state that meets R28. -/
theorem admittedPresentationCompletes : Obligations.AdmittedPresentationCompletes := by
  intro s w rest i hready hin hdec
  obtain ⟨t, hx⟩ := exec_completes i ((ready_consumed s).mpr hready)
  obtain ⟨hreset, -⟩ := exec_ready hx
  exact ⟨t, (step_of_decode hin hdec).trans hx, (exec_inputs hx).trans (congrArg List.tail hin), hreset⟩

/-! ### The output port (R72) -/

/-- A host that takes the bytes within `tok_len` takes the token's bytes. -/
theorem Token.read_drive (t : Token) : t.drive.read = some t.bytes := by
  cases t <;> rfl

/-- `tok_len` is the number of the token's bytes. -/
theorem Token.drive_tokLen (t : Token) : t.drive.tokLen.toNat = t.bytes.length := by
  cases t <;> rfl

/-- No token has two bytes. -/
theorem Token.bytes_length_ne_two (t : Token) : t.bytes.length ≠ 2 := by
  cases t <;> simp [Token.bytes]

/-- Settles O36: the drive of each token, and the length on the port, which is never that of two bytes. -/
theorem outputPortShowsTheToken : Obligations.OutputPortShowsTheToken := by
  refine ⟨fun _ => ⟨rfl, rfl⟩, fun _ _ => rfl, rfl, fun t => ⟨fun h => ?_, t.drive_tokLen, t.read_drive⟩⟩
  have hlen := t.drive_tokLen
  rw [h] at hlen
  exact t.bytes_length_ne_two hlen.symm

/-! ### The tokens a step can output (R69, R71) -/

/-- A token that comes in mode `m`: none, a raw byte in raw mode, or a run's. -/
def Token.FromMode (m : Mode) (t : Token) : Prop :=
  t = .noTok ∨ (m = .raw ∧ ∃ b, t = .raw b) ∨ ∃ v c, t = tokfmt v c

theorem submitAccepted_token (s : State) (b : Byte) : (submitAccepted s b).token.FromMode s.mode := by
  rcases submitAccepted_cases s b with
    ⟨hm, e⟩ | ⟨-, -, e⟩ | ⟨-, -, -, -, e⟩ | ⟨-, -, -, -, e⟩ | ⟨-, -, -, e⟩ <;> rw [e]
  · exact .inr (.inl ⟨hm, b, rfl⟩)
  · exact .inl rfl
  · exact .inl rfl
  · exact .inr (.inr ⟨_, _, rfl⟩)
  · exact .inr (.inr ⟨_, _, rfl⟩)

theorem finishAccepted_token (s : State) (m : Mode) : (finishAccepted s).token.FromMode m := by
  rcases finishAccepted_cases s with ⟨-, -, e⟩ | ⟨-, e⟩ <;> rw [e]
  · exact .inr (.inr ⟨_, _, rfl⟩)
  · exact .inl rfl

/-- Every command's token is one of the mode it leaves. -/
theorem exec_token {i : Instr} {s t : State} (hx : exec i s = .next t) : t.token.FromMode t.mode := by
  obtain ⟨-, hcase⟩ := exec_next hx
  rcases hcase with
    ⟨-, rfl⟩ | ⟨-, -, rfl⟩ | ⟨m, -, -, rfl⟩ | ⟨b, -, -, -, rfl⟩ | ⟨-, -, rfl⟩ | ⟨-, rfl⟩ | ⟨-, -, -, -, rfl⟩
  · exact .inl rfl
  · exact .inl rfl
  · exact .inl rfl
  · rw [submitAccepted_mode]
    exact submitAccepted_token s _
  · exact finishAccepted_token s _
  · exact .inl rfl
  · exact .inl rfl

/-- Every step's token is one of the mode it leaves. -/
theorem step_token {s t : State} (h : step s = .next t) : t.token.FromMode t.mode := by
  rcases step_next h with ⟨-, rfl⟩ | ⟨-, i, -, hx⟩
  · exact .inl rfl
  · exact exec_token hx

theorem Token.FromMode.legal {m : Mode} {t : Token} (h : t.FromMode m) : t.Legal := by
  rcases h with rfl | ⟨-, b, rfl⟩ | ⟨v, c, rfl⟩
  · exact Token.noConfusion
  · exact Token.noConfusion
  · exact tokfmt_ne_lit_esc v c

theorem Token.FromMode.mode_of_raw {m : Mode} {b : Byte} (h : (Token.raw b).FromMode m) : m = .raw := by
  rcases h with h | ⟨hm, -⟩ | ⟨v, c, h⟩
  · cases h
  · exact hm
  · exact absurd h.symm (tokfmt_ne_raw v b c)

/-- In rle mode the first byte tells the length: the sentinel starts three bytes, any other stands alone (R71). -/
theorem Token.FromMode.rest_of_first {t : Token} {x : Byte} {rest : List Byte} (h : t.FromMode .rle)
    (hb : t.bytes = x :: rest) : (x = 0xFF → rest.length = 2) ∧ (x ≠ 0xFF → rest = []) := by
  cases t with
  | noTok => cases hb
  | raw b => cases h.mode_of_raw
  | lit v =>
    cases hb
    exact ⟨fun hx => absurd (congrArg Token.lit hx) h.legal, fun _ => rfl⟩
  | esc l v =>
    cases hb
    exact ⟨fun _ => rfl, fun hx => absurd rfl hx⟩

/-- Settles O40, from the kinds of token a step can output. -/
theorem outputTokensAreLegal : Obligations.OutputTokensAreLegal := by
  intro s t h
  have htok := step_token h
  refine ⟨htok.legal, fun b hb => ?_, fun hm x rest hb => ?_⟩
  · rw [hb] at htok
    exact htok.mode_of_raw
  · rw [hm] at htok
    exact htok.rest_of_first hb

/-! ### The program text (R73, R74) -/

/-- A byte of the program text is one presentation of SUBMIT. -/
theorem assembleInstr_submit (b : Byte) : assembleInstr (.submit b.toNat) = some (Input.submit b) := by
  rw [assembleInstr, encode_submit]
  rfl

/-- A byte above 255 is refused (R73). -/
theorem assembleInstr_submit_of_gt {b : Nat} (h : 255 < b) : assembleInstr (.submit b) = none := by
  rw [assembleInstr, encode_submit_of_gt h]
  rfl

/-- SEND is one SUBMIT per byte, in order. -/
theorem assemble_send (bs : List Byte) :
    (AsmLine.send (bs.map BitVec.toNat)).assemble = some (bs.map Input.submit) := by
  have hbyte : (fun b => assembleInstr (.submit b)) ∘ BitVec.toNat = fun b => pure (Input.submit b) :=
    funext assembleInstr_submit
  rw [AsmLine.assemble, List.mapM_map, hbyte, List.mapM_pure]
  rfl

/-- One byte above 255 anywhere in the list of a SEND refuses it. -/
theorem assemble_send_of_gt {bs : List Nat} (h : ∃ b ∈ bs, 255 < b) : (AsmLine.send bs).assemble = none := by
  rw [AsmLine.assemble]
  induction bs with
  | nil => simp at h
  | cons b bs ih =>
    obtain ⟨c, hmem, hc⟩ := h
    rw [List.mapM_cons]
    rcases List.mem_cons.mp hmem with rfl | hmem
    · simp [assembleInstr_submit_of_gt hc]
    · simp [ih ⟨c, hmem, hc⟩]

/-- Settles O52: each pseudo-instruction is its SUBMITs, and is refused where one of them has no word. -/
theorem pseudoInstructionsExpand : Obligations.PseudoInstructionsExpand := by
  refine ⟨fun b n => ?_, assemble_send, fun b n hb => ⟨?_, ?_⟩, fun bs => assemble_send_of_gt⟩
  · rw [AsmLine.assemble, assembleInstr_submit]
    rfl
  · rw [AsmLine.assemble, assembleInstr_submit_of_gt hb]
    rfl
  · rw [AsmLine.assemble, assembleInstr_submit_of_gt hb]
    rfl

end Machine
end Sys2Proof
end

section
/-! PROOFS. The statements of 40_datapath.md: the units of the datapath (R100 to R110), the reference decoder (R112), and the
laws of the two encodings: round trip, size and the encoding of one run (R113, R114). -/

namespace Sys2Proof.Machine

/-! ### The comparators and the classifier (R100 to R104) -/

theorem eq8_iff {a b : Byte} : eq8 a b = true ↔ a = b := by
  simp [eq8]

theorem full_iff {c : Count} : full c = true ↔ c = 256 := by
  simp [full]

/-- Up to the cap the cap test is the count's top bit. -/
theorem full_eq_topBit {c : Count} (h : c.toNat ≤ 256) : full c = c.getLsbD 8 := by
  have htop : c.getLsbD 8 = decide (256 ≤ c.toNat) := BitVec.msb_eq_decide c
  rw [htop, Bool.eq_iff_iff, full_iff, decide_eq_true_eq, ← BitVec.toNat_inj]
  exact ⟨fun hc => hc.ge, fun hc => le_antisymm h hc⟩

/-- Settles O32: two bytes are the same when their bits are, and the tests are such comparisons. -/
theorem comparatorsTestEquality : Obligations.ComparatorsTestEquality := by
  refine ⟨fun a b => ?_, fun _ => rfl, fun c => ⟨?_, full_eq_topBit⟩⟩
  · rw [eq8_iff]
    exact ⟨fun h k _ => h ▸ rfl, BitVec.eq_of_getLsbD_eq⟩
  · rw [full_iff, ← BitVec.toNat_inj]
    rfl

/-- A count in range is not at the cap exactly when it is below it (R104). -/
theorem count_ne_cap_iff {c : Count} (h : c.toNat ≤ 256) : c ≠ 256 ↔ c.toNat < 256 := by
  rw [ne_eq, ← BitVec.toNat_inj]
  exact h.lt_iff_ne.symm

/-- Settles O33: in each of the four situations the classifier answers its one case. -/
theorem classifierCases : Obligations.ClassifierCases := by
  intro valid v c b
  have hcap : c.toNat ≤ 256 → (c ≠ 256 ↔ c.toNat < 256) := count_ne_cap_iff
  cases valid with
  | false => simpa [classify_start] using hcap
  | true =>
    by_cases hb : b = v
    · subst hb
      by_cases hc : c = 256
      · simp [classify_cap, hc]
      · simpa [classify_cont rfl hc] using And.intro hc hcap
    · simpa [classify_brk rfl hb, hb] using hcap

/-! ### The flush rule (R106 to R108) -/

/-- On its domain the encoded length is the count less one, which fits a byte. -/
theorem encodedLength_eq {c : Count} (h1 : 1 ≤ c.toNat) (h2 : c.toNat ≤ 256) :
    encodedLength c = BitVec.ofNat 8 (c.toNat - 1) := by
  rw [← encodedLength_toNat h1 h2, Nat.add_sub_cancel, BitVec.ofNat_toNat, BitVec.setWidth_eq]

/-- A run of two or more has the escape form. -/
theorem tokfmt_of_two_le {c : Count} (v : Byte) (h1 : 2 ≤ c.toNat) (h2 : c.toNat ≤ 256) :
    tokfmt v c = .esc (BitVec.ofNat 8 (c.toNat - 1)) v := by
  have hc : c ≠ 1 := by
    rintro rfl
    simp at h1
  rw [tokfmt_of_not_selLit fun h => hc h.1, encodedLength_eq (by omega) h2]

/-- Settles O35, from the two forms of a token and the encoded length. -/
theorem tokenFormatFlushRule : Obligations.TokenFormatFlushRule := by
  intro v c h1 h2
  refine ⟨selLit_iff, fun h => tokfmt_of_selLit (selLit_iff.mp h), fun h => tokfmt_of_not_selLit ?_,
    encodedLength_toNat h1 h2, ?_, ?_, ?_, fun hc hv => tokfmt_of_selLit ⟨hc, hv⟩, ?_, fun h => tokfmt_of_two_le v h h2⟩
  · rw [← selLit_iff, h]
    decide
  · rintro rfl; decide
  · rintro rfl; decide
  · rintro rfl; decide
  · rintro rfl rfl; decide

/-! ### The length counter (R105) -/

/-- Where FINISH flushes nothing, no run is pending (item 3 of R28 in raw mode). -/
theorem State.Coherent.runValid_of_no_flush {s : State} (h : s.Coherent) (hno : ¬ (s.mode = .rle ∧ s.runValid = true)) :
    s.runValid = false := by
  obtain ⟨-, -, hraw, -⟩ := h
  cases hm : s.mode with
  | raw => exact hraw hm
  | rle => simpa [hm] using hno

/-- FINISH leaves no run, so a count of 0. -/
theorem finishAccepted_runCount {s : State} (h : s.Coherent) : (finishAccepted s).runCount = 0 := by
  rcases finishAccepted_cases s with ⟨-, -, e⟩ | ⟨hno, e⟩ <;> rw [e]
  · rfl
  · have hv := h.runValid_of_no_flush hno
    obtain ⟨⟨hzero, -⟩, -⟩ := h
    exact hzero.mp hv

/-- Only an accepted SUBMIT or FINISH in rle mode writes the counter. -/
theorem exec_runCount_of_ne {i : Instr} {s t : State} (hx : exec i s = .next t) (hne : t.runCount ≠ s.runCount) :
    s.Open ∧ s.mode = .rle ∧ ((∃ b, i = .submit b) ∨ i = .finish) := by
  obtain ⟨-, hcase⟩ := exec_next hx
  rcases hcase with
    ⟨-, rfl⟩ | ⟨-, -, rfl⟩ | ⟨m, -, -, rfl⟩ | ⟨b, hi, ho, -, rfl⟩ | ⟨hi, ho, rfl⟩ | ⟨-, rfl⟩ | ⟨-, -, -, -, rfl⟩
  · exact absurd rfl hne
  · exact absurd rfl hne
  · exact absurd rfl hne
  · cases hm : s.mode with
    | raw =>
      obtain ⟨-, -, hcount⟩ := submitAccepted_run_of_raw (BitVec.ofNat 8 b) hm
      exact absurd hcount hne
    | rle => exact ⟨ho, rfl, .inl ⟨b, hi⟩⟩
  · cases hm : s.mode with
    | raw =>
      obtain ⟨-, -, hcount⟩ := finishAccepted_run_of_raw hm
      exact absurd hcount hne
    | rle => exact ⟨ho, rfl, .inr hi⟩
  · exact absurd rfl hne
  · exact absurd rfl hne

/-- The counter after an accepted SUBMIT in rle mode, by case of the classifier. -/
theorem submitAccepted_runCount {s : State} (b : Byte) (hm : s.mode = .rle) :
    (submitAccepted s b).runCount = nextCount (classify s.runValid s.runValue s.runCount b) s.runCount := by
  simp only [submitAccepted, hm]
  cases classify s.runValid s.runValue s.runCount b <;> rfl

/-- Settles O34, by case of the classifier; CONT adds one below the cap to a count of at least 1. -/
theorem lengthCounterByCase : Obligations.LengthCounterByCase := by
  refine ⟨fun b s t hx ho hm => ?_, fun s t hx ho => ?_, fun s t h hrst => ?_, fun i s t => exec_runCount_of_ne⟩
  · obtain ⟨hready, -⟩ := exec_next hx
    rw [execSubmit_run b hready ho] at hx
    cases hx
    rw [submitAccepted_runCount b hm]
    refine ⟨fun hv => ?_, fun hv hb hlt => ?_, fun hv hb hc => ?_, fun hv hb => ?_⟩
    · rw [classify_start hv]
      rfl
    · have hc : s.runCount ≠ 256 := (count_ne_cap_iff hlt.le).mpr hlt
      obtain ⟨hpos, -⟩ := hready.2.runCount_range hv
      rw [hb, classify_cont hv hc, nextCount, count_succ_toNat hlt]
      omega
    · rw [hb, classify_cap hv (BitVec.eq_of_toNat_eq hc)]
      rfl
    · rw [classify_brk hv hb]
      rfl
  · obtain ⟨hready, -⟩ := exec_next hx
    rw [execFinish_run hready ho] at hx
    cases hx
    exact finishAccepted_runCount hready.2
  · rcases step_next h with ⟨-, rfl⟩ | ⟨hrst', -⟩
    · rfl
    · rw [hrst] at hrst'
      cases hrst'

/-! ### The output multiplexer (R110) -/

/-- In DONE and FAULT nothing is selected, whatever the command. -/
theorem selectTable_of_done_or_fault {s : State} (h : s.phase = .done ∨ s.phase = .fault) (i : Instr) :
    selectTable s i = .none := by
  cases i with
  | nop => rfl
  | configure m => rfl
  | submit b => exact if_pos h.symm
  | finish => exact if_pos h.symm

/-- The row of a SUBMIT in IDLE and ACTIVE. -/
theorem submitAccepted_token_eq_outMux {s : State} (ho : s.Open) (b : Nat) :
    (submitAccepted s (BitVec.ofNat 8 b)).token =
      outMux (selectTable s (.submit b)) (BitVec.ofNat 8 b) s.runValue s.runCount := by
  have hp : ¬ (s.phase = .fault ∨ s.phase = .done) := not_or.mpr ⟨ho.ne_fault, ho.ne_done⟩
  cases hm : s.mode with
  | raw => simp [submitAccepted, selectTable, hm, hp]
  | rle =>
    simp only [submitAccepted, selectTable, hm, hp, if_false]
    cases classify s.runValid s.runValue s.runCount (BitVec.ofNat 8 b) <;> rfl

/-- The row of FINISH in IDLE and ACTIVE. -/
theorem finishAccepted_token_eq_outMux {s : State} (ho : s.Open) (b : Byte) :
    (finishAccepted s).token = outMux (selectTable s .finish) b s.runValue s.runCount := by
  have hp : ¬ (s.phase = .fault ∨ s.phase = .done) := not_or.mpr ⟨ho.ne_fault, ho.ne_done⟩
  cases hm : s.mode with
  | raw => simp [finishAccepted, selectTable, hm, hp]
  | rle => cases hv : s.runValid <;> simp [finishAccepted, selectTable, hm, hp, hv]

/-- The token of a well-formed command that answers a next state is the multiplexer's. -/
theorem exec_token_eq_outMux {i : Instr} {s t : State} (hx : exec i s = .next t) (hwf : i.wellFormed = true) :
    t.token = outMux (selectTable s i) i.byte s.runValue s.runCount := by
  obtain ⟨-, hcase⟩ := exec_next hx
  rcases hcase with
    ⟨hp, rfl⟩ | ⟨-, rfl, rfl⟩ | ⟨m, rfl, -, rfl⟩ | ⟨b, rfl, ho, -, rfl⟩ | ⟨rfl, ho, rfl⟩ | ⟨hp, rfl⟩ | ⟨b, rfl, -, hb, rfl⟩
  · rw [selectTable_of_done_or_fault (.inr hp)]
    rfl
  · rfl
  · rfl
  · exact submitAccepted_token_eq_outMux ho b
  · exact finishAccepted_token_eq_outMux ho _
  · rcases hp with ⟨hp, -⟩ | ⟨-, m, rfl⟩
    · rw [selectTable_of_done_or_fault (.inl hp)]
      rfl
    · rfl
  · exact absurd (of_decide_eq_true hwf) (Nat.not_le.mpr hb)

/-- Settles O43: every command completes, with the multiplexer's token, and a reset outputs none. -/
theorem outputSelectTable : Obligations.OutputSelectTable := by
  refine ⟨fun i s hready hwf => ?_, fun s hrst => ⟨s.consumed.doReset, if_pos hrst, rfl⟩⟩
  obtain ⟨t, hx⟩ := exec_completes i hready
  exact ⟨t, hx, exec_token_eq_outMux hx hwf⟩

/-! ### The reference decoder (R112) -/

/-- Settles O51: whole tokens by their rules, a cut escape token by evaluation. -/
theorem referenceDecoderByFirstByte : Obligations.ReferenceDecoderByFirstByte :=
  ⟨rfl, fun _ rest h => refDecode_cons_of_ne h rest, refDecode_escape, rfl, fun _ => rfl⟩

/-! ### FINISH and the output of a complete session (R11, R244) -/

theorem decode_finish_word : decode Input.finish.cmd = .ok .finish := by decide

/-- A presented FINISH that is accepted is the step. -/
theorem step_finish {s : State} {rest : List Input} (h : s.Ready) (ho : s.Open)
    (hin : s.inputs = Input.finish :: rest) : step s = .next (finishAccepted s.consumed) :=
  (step_of_decode hin decode_finish_word).trans (execFinish_run h ho)

/-- The bytes a session outputs from `s`: those of one accepted SUBMIT per byte, then those of FINISH. -/
def sessionOutput (s : State) (bytes : List Byte) : List Byte :=
  outBytes (submitTokens s bytes) ++ (finishAccepted (afterSubmits s bytes).consumed).token.bytes

theorem sessionOutput_nil (s : State) : sessionOutput s [] = (finishAccepted s.consumed).token.bytes := rfl

theorem sessionOutput_cons (s : State) (b : Byte) (bytes : List Byte) :
    sessionOutput s (b :: bytes) =
      (submitAccepted s.consumed b).token.bytes ++ sessionOutput (submitAccepted s.consumed b) bytes := by
  simp only [sessionOutput, submitTokens, afterSubmits, outBytes_cons, List.append_assoc]

/-- A complete session runs: the boot without output, the SUBMITs, and FINISH. -/
theorem runInputs_session (s : State) (ms : List Mode) (bytes : List Byte) :
    ∃ t ts, t.Booted (chosenMode ms) (bytes.map Input.submit ++ [Input.finish]) ∧ outBytes ts = [] ∧
      runInputs (sessionInputs ms bytes) s =
        .next (finishAccepted (afterSubmits t bytes).consumed,
          ts ++ submitTokens t bytes ++ [(finishAccepted (afterSubmits t bytes).consumed).token]) := by
  obtain ⟨t, ts, hboot, hout, hrun⟩ :=
    runTokens_stream (s := { s with inputs := sessionInputs ms bytes }) (rest := [Input.finish]) rfl
  obtain ⟨-, hready, hopen, -, hleft⟩ := runTokens_submits hboot.ready hboot.isOpen hboot.inputs_eq
  have hfin : runTokens 1 (afterSubmits t bytes) = .next (_, [_]) := runTokens_succ (step_finish hready hopen hleft) rfl
  refine ⟨t, ts, hboot, hout, ?_⟩
  rw [runInputs, sessionInputs, List.length_append]
  exact runTokens_add hrun hfin

/-- No run is pending before the first byte (item 4 of R28). -/
theorem State.Booted.runValid_eq {s : State} {m : Mode} {rest : List Input} (h : s.Booted m rest) :
    s.runValid = false := by
  obtain ⟨-, -, -, -, hnorun, -⟩ := h.ready
  exact hnorun (.inl h.idle)

/-- Every encoding is the output of a booted block. -/
theorem encodeSession_eq (s : State) (ms : List Mode) (bytes : List Byte) :
    ∃ t, t.Booted (chosenMode ms) (bytes.map Input.submit ++ [Input.finish]) ∧
      encodeSession s ms bytes = some (sessionOutput t bytes) := by
  obtain ⟨t, ts, hboot, hout, hrun⟩ := runInputs_session s ms bytes
  refine ⟨t, hboot, ?_⟩
  simp [encodeSession, hrun, hout, sessionOutput]

/-! ### The raw encoding (R113, R114 item 1) -/

/-- In raw mode every byte is output as it is, and FINISH outputs nothing. -/
theorem sessionOutput_raw {s : State} (hm : s.mode = .raw) (bytes : List Byte) : sessionOutput s bytes = bytes := by
  induction bytes generalizing s with
  | nil => simp [sessionOutput_nil, finishAccepted, hm, Token.bytes]
  | cons b bytes ih =>
    have htok : (submitAccepted s.consumed b).token = .raw b := by simp [submitAccepted, hm]
    rw [sessionOutput_cons, htok, ih ((submitAccepted_mode s.consumed b).trans hm)]
    rfl

theorem encodeSession_raw (s : State) (bytes : List Byte) : encodeSession s [.raw] bytes = some bytes := by
  obtain ⟨t, hboot, henc⟩ := encodeSession_eq s [.raw] bytes
  rw [henc, sessionOutput_raw hboot.mode_eq]

/-! ### The round trip (R113) -/

/-- FINISH outputs the pending run. -/
theorem finishAccepted_covers {s : State} (h : s.Coherent) :
    DecodesTo (finishAccepted s).token.bytes s.pendingBytes := by
  rcases finishAccepted_cases s with ⟨-, hv, e⟩ | ⟨hno, e⟩ <;> rw [e]
  · exact flushToken_decodesTo h hv
  · rw [State.pendingBytes_of_invalid (h.runValid_of_no_flush hno)]
    exact decodesTo_nil

/-- In rle mode a whole session's output decodes to the bytes submitted: the SUBMITs cover all but the pending run, and
FINISH outputs that. -/
theorem sessionOutput_decodesTo {s : State} {bytes : List Byte} {rest : List Input}
    (h : s.Booted .rle (bytes.map Input.submit ++ rest)) : DecodesTo (sessionOutput s bytes) bytes := by
  obtain ⟨-, hready, -⟩ := runTokens_submits h.ready h.isOpen h.inputs_eq
  obtain ⟨covered, hdec, hcov⟩ := submitTokens_cover bytes h.ready h.isOpen h.mode_eq
  have hfin := finishAccepted_covers (s := (afterSubmits s bytes).consumed) hready.2
  rw [h.pendingBytes_eq, List.nil_append] at hcov
  rw [State.pendingBytes_consumed] at hfin
  have hall := hdec.append hfin
  rwa [hcov] at hall

/-- Settles O46: in rle mode the tokens cover the bytes submitted, in raw mode they are them. -/
theorem roundTripLaws : Obligations.RoundTripLaws := by
  intro s bytes
  obtain ⟨t, hboot, henc⟩ := encodeSession_eq s [.rle] bytes
  exact ⟨⟨_, henc, (sessionOutput_decodesTo hboot).refDecode_eq⟩, encodeSession_raw s bytes⟩

/-! ### The rle encoding by its runs (R114) -/

/-- What is output in rle mode from a pending run of `c` copies of `v` on: the rest of the bytes, then FINISH. -/
def rleOutput (v : Byte) (c : Count) : List Byte → List Byte
  | [] => (tokfmt v c).bytes
  | b :: bytes =>
    if b ≠ v then (tokfmt v c).bytes ++ rleOutput b 1 bytes
    else if c = 256 then (tokfmt v c).bytes ++ rleOutput v 1 bytes
    else rleOutput v (c + 1) bytes

/-- BREAK: the run is flushed. -/
theorem rleOutput_break {v b : Byte} (h : b ≠ v) (c : Count) (bytes : List Byte) :
    rleOutput v c (b :: bytes) = (tokfmt v c).bytes ++ rleOutput b 1 bytes := by
  rw [rleOutput, if_pos h]

/-- CAP: a full run is flushed. -/
theorem rleOutput_cap (v : Byte) (bytes : List Byte) :
    rleOutput v 256 (v :: bytes) = (tokfmt v 256).bytes ++ rleOutput v 1 bytes := by
  rw [rleOutput, if_neg (not_not.mpr rfl), if_pos rfl]

/-- CONT: nothing is output. -/
theorem rleOutput_cont {c : Count} (h : c ≠ 256) (v : Byte) (bytes : List Byte) :
    rleOutput v c (v :: bytes) = rleOutput v (c + 1) bytes := by
  rw [rleOutput, if_neg (not_not.mpr rfl), if_neg h]

/-- A session with a run pending outputs what `rleOutput` says of the run registers. -/
theorem sessionOutput_of_run {s : State} (hm : s.mode = .rle) (hv : s.runValid = true) (bytes : List Byte) :
    sessionOutput s bytes = rleOutput s.runValue s.runCount bytes := by
  induction bytes generalizing s with
  | nil => simp [sessionOutput_nil, finishAccepted, hm, hv, rleOutput]
  | cons b bytes ih =>
    have hmode := (submitAccepted_mode s.consumed b).trans hm
    rw [sessionOutput_cons]
    rcases submitAccepted_cases s.consumed b with
      ⟨hraw, -⟩ | ⟨-, hinv, -⟩ | ⟨-, -, hb, hc, e⟩ | ⟨-, -, hb, hc, e⟩ | ⟨-, -, hb, e⟩
    · simp [hm] at hraw
    · simp [hv] at hinv
    · rw [ih hmode (by rw [e]; rfl), e, hb]
      exact (rleOutput_cont hc _ _).symm
    · rw [ih hmode (by rw [e]; rfl), e, hb]
      simp only [State.consumed_runValue, State.consumed_runCount] at hc ⊢
      rw [hc, rleOutput_cap]
      rfl
    · rw [ih hmode (by rw [e]; rfl), e]
      exact (rleOutput_break hb _ _).symm

/-- The rle encoding of no byte is empty. -/
theorem encodeSession_rle_nil (s : State) : encodeSession s [.rle] [] = some [] := by
  obtain ⟨t, hboot, henc⟩ := encodeSession_eq s [.rle] []
  rw [henc, sessionOutput_nil]
  simp [finishAccepted, hboot.runValid_eq, Token.bytes]

/-- The first byte starts a run and outputs nothing. -/
theorem encodeSession_rle_cons (s : State) (b : Byte) (bytes : List Byte) :
    encodeSession s [.rle] (b :: bytes) = some (rleOutput b 1 bytes) := by
  obtain ⟨t, hboot, henc⟩ := encodeSession_eq s [.rle] (b :: bytes)
  have hm : t.mode = .rle := hboot.mode_eq
  have hstart : submitAccepted t.consumed b = ((t.consumed.setPhase .active).setRun true b 1).emit .noTok := by
    rcases submitAccepted_cases t.consumed b with
      ⟨hraw, -⟩ | ⟨-, -, e⟩ | ⟨-, hv, -⟩ | ⟨-, hv, -⟩ | ⟨-, hv, -⟩
    · simp [hm] at hraw
    · exact e
    all_goals simp [hboot.runValid_eq] at hv
  have hrun := sessionOutput_of_run (s := ((t.consumed.setPhase .active).setRun true b 1).emit .noTok) hm rfl bytes
  rw [henc, sessionOutput_cons, hstart, hrun]
  rfl

/-! ### The sizes of the encodings (R114 items 1 and 2) -/

theorem tokfmt_bytes_length {v : Byte} {c : Count} :
    (tokfmt v c).bytes.length = if c = 1 ∧ v ≠ 0xFF then 1 else 3 := by
  split
  next h => rw [tokfmt_of_selLit h]; rfl
  next h => rw [tokfmt_of_not_selLit h]; rfl

theorem tokfmt_bytes_length_range (v : Byte) (c : Count) :
    1 ≤ (tokfmt v c).bytes.length ∧ (tokfmt v c).bytes.length ≤ 3 := by
  rw [tokfmt_bytes_length]
  split <;> decide

theorem tokfmt_one_bytes_length (v : Byte) : (tokfmt v 1).bytes.length = if v = 0xFF then 3 else 1 := by
  simp [tokfmt_bytes_length]

/-- Every further byte adds at most one escape token. -/
theorem rleOutput_length_le (v : Byte) (c : Count) (bytes : List Byte) :
    (rleOutput v c bytes).length ≤ 3 * bytes.length + (tokfmt v c).bytes.length := by
  induction bytes generalizing v c with
  | nil => simp [rleOutput]
  | cons b bytes ih =>
    by_cases hb : b = v
    · subst hb
      by_cases hc : c = 256
      · subst hc
        have hrest := ih b 1
        have htok := tokfmt_bytes_length_range b 1
        rw [rleOutput_cap, List.length_append, List.length_cons]
        omega
      · have hrest := ih b (c + 1)
        have htok := tokfmt_bytes_length_range b (c + 1)
        rw [rleOutput_cont hc, List.length_cons]
        omega
    · have hrest := ih b 1
      have htok := tokfmt_bytes_length_range b 1
      rw [rleOutput_break hb, List.length_append, List.length_cons]
      omega

/-- With a second byte the bound is strict: it continues the run, or one of the two bytes is not the sentinel. -/
theorem rleOutput_length_lt (v b : Byte) (bytes : List Byte) :
    (rleOutput v 1 (b :: bytes)).length < 3 * (bytes.length + 2) := by
  by_cases hb : b = v
  · subst hb
    have hle := rleOutput_length_le b (1 + 1) bytes
    have htok := tokfmt_bytes_length_range b (1 + 1)
    rw [rleOutput_cont (by decide)]
    omega
  · have hle := rleOutput_length_le b 1 bytes
    rw [rleOutput_break hb, List.length_append, tokfmt_one_bytes_length]
    by_cases hv : v = 0xFF
    · rw [tokfmt_one_bytes_length, if_neg (hv ▸ hb)] at hle
      rw [if_pos hv]
      omega
    · have htok := tokfmt_bytes_length_range b 1
      rw [if_neg hv]
      omega

/-- Settles O48: by the number of bytes; the bound is met with no byte and with the sentinel alone, and strict from the second
byte on. -/
theorem encodingSizeLaws : Obligations.EncodingSizeLaws := by
  intro s bytes
  refine ⟨⟨bytes, encodeSession_raw s bytes, rfl⟩, ?_, encodeSession_rle_nil s, encodeSession_raw s []⟩
  match bytes with
  | [] => exact ⟨[], encodeSession_rle_nil s, by simp⟩
  | [b] =>
    refine ⟨_, encodeSession_rle_cons s b [], ?_⟩
    rw [rleOutput, tokfmt_one_bytes_length]
    by_cases hb : b = 0xFF
    · rw [if_pos hb]
      simp [hb]
    · rw [if_neg hb]
      simpa using hb
  | b :: b' :: bytes =>
    have hlt := rleOutput_length_lt b b' bytes
    exact ⟨_, encodeSession_rle_cons s b (b' :: bytes), hlt.le, iff_of_false hlt.ne (by simp)⟩

/-! ### The rle encoding of one run (R114 item 3) -/

theorem count_one_add (n : Nat) : (1 : Count) + BitVec.ofNat 9 n = BitVec.ofNat 9 (n + 1) := by
  rw [Nat.add_comm n 1, BitVec.ofNat_add]
  rfl

/-- Copies of the run's byte are added to its count, up to the cap. -/
theorem rleOutput_replicate {v : Byte} {c : Count} {n : Nat} (h : c.toNat + n ≤ 256) (bytes : List Byte) :
    rleOutput v c (List.replicate n v ++ bytes) = rleOutput v (c + BitVec.ofNat 9 n) bytes := by
  induction n generalizing c with
  | zero => simp
  | succ n ih =>
    have hlt : c.toNat < 256 := by omega
    have hc : c ≠ 256 := (count_ne_cap_iff hlt.le).mpr hlt
    rw [List.replicate_succ, List.cons_append, rleOutput_cont hc, ih (by rw [count_succ_toNat hlt]; omega),
      BitVec.add_assoc, count_one_add]

/-- 256 more copies of the run's byte are one escape token at the cap (R109, R138). -/
theorem rleOutput_full_run (v : Byte) (bytes : List Byte) :
    rleOutput v 1 (List.replicate 256 v ++ bytes) = [0xFF, 0xFF, v] ++ rleOutput v 1 bytes := by
  have hcap : (1 : Count) + BitVec.ofNat 9 255 = 256 := by decide
  rw [show 256 = 255 + 1 from rfl, List.replicate_succ', List.append_assoc, rleOutput_replicate (by decide), hcap,
    List.singleton_append, rleOutput_cap, tokfmt_cap]
  rfl

/-- `k` full runs are `k` such tokens. -/
theorem rleOutput_full_runs (v : Byte) (k : Nat) (bytes : List Byte) :
    rleOutput v 1 (List.replicate (256 * k) v ++ bytes) =
      (List.replicate k [(0xFF : Byte), 0xFF, v]).flatten ++ rleOutput v 1 bytes := by
  induction k with
  | zero => simp
  | succ k ih =>
    rw [Nat.mul_succ, Nat.add_comm, List.replicate_add, List.append_assoc, rleOutput_full_run, ih, List.replicate_succ,
      List.flatten_cons, List.append_assoc]

/-- A run of `256 k + r + 1` copies is `k` tokens at the cap and the token of the `r + 1` left. -/
theorem encodeSession_replicate (s : State) (v : Byte) (k : Nat) {r : Nat} (hr : r < 256) :
    encodeSession s [.rle] (List.replicate (256 * k + r + 1) v) =
      some ((List.replicate k [(0xFF : Byte), 0xFF, v]).flatten ++ (tokfmt v (BitVec.ofNat 9 (r + 1))).bytes) := by
  have hrest : rleOutput v 1 (List.replicate r v) = (tokfmt v (BitVec.ofNat 9 (r + 1))).bytes := by
    have h := rleOutput_replicate (v := v) (c := 1) (n := r) (by simp; omega) []
    rwa [List.append_nil, count_one_add] at h
  rw [List.replicate_succ, encodeSession_rle_cons, List.replicate_add, rleOutput_full_runs, hrest]

/-- Settles O49: the last run has `r` copies, or 256 where `r` is 0. -/
theorem encodingOfOneRun : Obligations.EncodingOfOneRun := by
  intro s v k r hr hn
  match r with
  | 0 =>
    obtain ⟨k, rfl⟩ : ∃ j, k = j + 1 := ⟨k - 1, by omega⟩
    have h := encodeSession_replicate s v k (r := 255) (by decide)
    rw [show BitVec.ofNat 9 (255 + 1) = 256 from rfl, tokfmt_cap] at h
    rw [if_pos rfl, List.append_nil, List.replicate_succ', List.flatten_append]
    exact h
  | 1 =>
    rw [encodeSession_replicate s v k (r := 0) (by decide), if_neg (by decide), if_pos rfl]
    by_cases hv : v = 0xFF
    · rw [if_pos hv, hv]
      rfl
    · have htok : tokfmt v (BitVec.ofNat 9 (0 + 1)) = .lit v := tokfmt_of_selLit ⟨rfl, hv⟩
      rw [if_neg hv, htok]
      rfl
  | r + 2 =>
    have hc : (BitVec.ofNat 9 (r + 1 + 1)).toNat = r + 2 := Nat.mod_eq_of_lt (by omega)
    rw [if_neg (by omega), if_neg (by omega)]
    refine (encodeSession_replicate s v k (r := r + 1) (by omega)).trans ?_
    rw [tokfmt_of_two_le v (by omega) (by omega), hc]
    rfl

end Sys2Proof.Machine
end

section
/-! PROOFS. The statements of 41_commands.md: what each command does in each phase (R131 to R144), the phase transitions (R145)
and the fixed mode (R146). -/

namespace Sys2Proof.Machine

/-! ### The step and NOP (R131, R132) -/

/-- Settles O10: taking the presentation leaves the schedule's rest. -/
theorem stepRunsTheDecodedCommand : Obligations.StepRunsTheDecodedCommand := by
  intro s w rest i hin hdec
  have htaken : s.consumed = { s with inputs := rest } := by rw [State.consumed, hin, List.tail_cons]
  rw [step_of_decode hin hdec, htaken]

/-- NOP runs in every phase: its own effect is what FAULT makes of any command (R132, R205). -/
theorem execNop_run {s : State} (h : s.Ready) : exec .nop s = .next (s.emit .noTok) := by
  rw [exec, execNop]
  by_cases hp : s.phase = .fault
  · exact command_fault _ h hp
  · exact command_run _ h hp

/-- Settles O14: NOP writes the token only. -/
theorem nopChangesNothing : Obligations.NopChangesNothing := fun _ => execNop_run

/-! ### CONFIGURE (R133) -/

/-- CONFIGURE after the first SUBMIT takes the fault entry, whatever mode it names. -/
theorem execConfigure_raise {s : State} (m : Mode) (h : s.Ready) (hp : s.phase = .active ∨ s.phase = .done) :
    exec (.configure m) s = .next (s.raise .sessionState) := by
  have hnf : s.phase ≠ .fault := by rcases hp with hp | hp <;> simp [hp]
  have hni : s.phase ≠ .idle := by rcases hp with hp | hp <;> simp [hp]
  rw [exec, execConfigure, command_run _ h hnf, if_neg hni]

/-- Settles O15: the mode is written in IDLE, and ACTIVE and DONE take the fault entry. -/
theorem configureWritesModeInIdleOnly : Obligations.ConfigureWritesModeInIdleOnly :=
  fun m _ hready => ⟨execConfigure_run m hready, execConfigure_raise m hready⟩

/-! ### SUBMIT (R135 to R140) -/

/-- In raw mode an accepted byte is output as it is (R135). -/
theorem submitAccepted_of_raw {s : State} (b : Byte) (hm : s.mode = .raw) :
    submitAccepted s b = (s.setPhase .active).emit (.raw b) := by
  simp only [submitAccepted, hm, outMux_raw]

/-- In rle mode the classifier's case decides the run registers and the output (R103, R110). -/
theorem submitAccepted_of_classify {s : State} {b : Byte} {k : RunCase} (hm : s.mode = .rle)
    (hk : classify s.runValid s.runValue s.runCount b = k) :
    submitAccepted s b = (foldByte (s.setPhase .active) k b).emit (outMux (submitSel k) b s.runValue s.runCount) := by
  simp only [submitAccepted, hm, hk]

/-- An accepted SUBMIT in rle mode, by the classifier's case. -/
theorem execSubmit_of_classify {s : State} {b : Byte} {k : RunCase} (h : s.Ready) (ho : s.Open) (hm : s.mode = .rle)
    (hk : classify s.runValid s.runValue s.runCount b = k) :
    exec (.submit b.toNat) s =
      .next ((foldByte (s.setPhase .active) k b).emit (outMux (submitSel k) b s.runValue s.runCount)) := by
  rw [execSubmit_run b h ho, submitAccepted_of_classify hm hk]

/-- Item 6 of R28: in rle mode only IDLE has no run pending. -/
theorem State.Coherent.idle_of_no_run {s : State} (h : s.Coherent) (ho : s.Open) (hm : s.mode = .rle)
    (hv : s.runValid = false) : s.phase = .idle := by
  obtain ⟨-, -, -, -, -, hactive⟩ := h
  refine ho.resolve_right fun ha => ?_
  rw [hactive ⟨ha, hm⟩] at hv
  cases hv

/-- Settles O16, from the raw row of SUBMIT. -/
theorem submitRawOutputsTheByte : Obligations.SubmitRawOutputsTheByte := by
  intro b s hready ho hm
  rw [execSubmit_run b hready ho, submitAccepted_of_raw b hm]
  rfl

/-- Settles O17, the case START; an ACTIVE session in rle mode has a run. -/
theorem submitStartsARun : Obligations.SubmitStartsARun := by
  intro b s hready ho hm hv
  exact ⟨hready.2.idle_of_no_run ho hm hv, execSubmit_of_classify hready ho hm (classify_start hv)⟩

/-- Settles O18, the case CONT; a pending run has a count of at least 1, and one below the cap does not wrap. -/
theorem submitContinuesTheRun : Obligations.SubmitContinuesTheRun := by
  intro s hready ho hm hv hlt
  have hc : s.runCount ≠ 256 := (count_ne_cap_iff hlt.le).mpr hlt
  have hsucc := count_succ_toNat hlt
  obtain ⟨hpos, -⟩ := hready.2.runCount_range hv
  exact ⟨execSubmit_of_classify hready ho hm (classify_cont hv hc), hsucc, by omega, by omega⟩

/-- Settles O19, the case CAP, with the token of a full run. -/
theorem submitAtTheCapEmits : Obligations.SubmitAtTheCapEmits := by
  intro s hready ho hm hv hfull
  have hc : s.runCount = 256 := BitVec.eq_of_toNat_eq hfull
  refine ⟨?_, rfl⟩
  rw [execSubmit_of_classify hready ho hm (classify_cap hv hc), submitSel, outMux_run, hc, tokfmt_cap]
  rfl

/-- Settles O20, the case BREAK, with the flush rule at a run of one and at the cap. -/
theorem submitBreaksTheRun : Obligations.SubmitBreaksTheRun := by
  intro b s hready ho hm hv hb
  refine ⟨execSubmit_of_classify hready ho hm (classify_brk hv hb), fun hc hne => ?_, fun hc he => ?_, fun hc => ?_⟩
  · rw [tokfmt_of_selLit ⟨hc, hne⟩]
    rfl
  · rw [hc, he]
    rfl
  · rw [hc, tokfmt_cap]
    rfl

/-- In rle mode an accepted byte outputs nothing or the token of the run before it, never one that covers itself (R140). -/
theorem submitAccepted_token_of_rle {s : State} (b : Byte) (hm : s.mode = .rle) :
    (submitAccepted s b).token = .noTok ∨
      (s.runValid = true ∧ (submitAccepted s b).token = tokfmt s.runValue s.runCount) := by
  rcases submitAccepted_cases s b with
    ⟨hraw, -⟩ | ⟨-, -, e⟩ | ⟨-, -, -, -, e⟩ | ⟨-, hv, -, -, e⟩ | ⟨-, hv, -, e⟩
  · rw [hm] at hraw
    cases hraw
  · exact .inl (congrArg State.token e)
  · exact .inl (congrArg State.token e)
  · exact .inr ⟨hv, congrArg State.token e⟩
  · exact .inr ⟨hv, congrArg State.token e⟩

/-- Settles O21: an accepted SUBMIT by its mode; in FAULT, and where it faults, it outputs nothing. -/
theorem submitOutputsTheEarlierRunOnly : Obligations.SubmitOutputsTheEarlierRunOnly := by
  intro b s t hx
  obtain ⟨hready, hcase⟩ := exec_next hx
  constructor
  · intro hm ho
    rw [execSubmit_run b hready ho, submitAccepted_of_raw b hm] at hx
    cases hx
    rfl
  · intro hm
    rcases hcase with
      ⟨-, rfl⟩ | ⟨-, -, rfl⟩ | ⟨m, -, -, rfl⟩ | ⟨b', -, -, -, rfl⟩ | ⟨hi, -, -⟩ | ⟨-, rfl⟩ | ⟨-, -, -, -, rfl⟩
    · exact .inl rfl
    · exact .inl rfl
    · exact .inl rfl
    · exact submitAccepted_token_of_rle _ hm
    · cases hi
    · exact .inl rfl
    · exact .inl rfl

/-! ### FINISH (R142 to R144) -/

/-- FINISH with a run pending flushes and clears it. -/
theorem finishAccepted_of_run {s : State} (hm : s.mode = .rle) (hv : s.runValid = true) :
    finishAccepted s = ((s.setPhase .done).setRun false 0 0).emit (tokfmt s.runValue s.runCount) :=
  if_pos ⟨hm, hv⟩

/-- FINISH without a pending run writes only the phase. -/
theorem finishAccepted_of_no_run {s : State} (hv : s.runValid = false) :
    finishAccepted s = (s.setPhase .done).emit .noTok :=
  if_neg fun h => Bool.false_ne_true (hv.symm.trans h.2)

/-- An accepted FINISH without a pending run outputs nothing (R143, R144). -/
theorem execFinish_of_no_run {s : State} (h : s.Ready) (ho : s.Open) (hv : s.runValid = false) :
    exec .finish s = .next { s with phase := .done, token := .noTok } := by
  rw [execFinish_run h ho, finishAccepted_of_no_run hv]
  rfl

/-- Settles O23: the pending run is flushed. -/
theorem finishFlushesThePendingRun : Obligations.FinishFlushesThePendingRun := by
  intro s hready ho hm hv
  rw [execFinish_run hready ho, finishAccepted_of_run hm hv]
  rfl

/-- Settles O24: in raw mode no run is ever pending (item 3 of R28). -/
theorem finishRawOutputsNothing : Obligations.FinishRawOutputsNothing := by
  intro s hready ho hm
  obtain ⟨-, -, hraw, -⟩ := hready.2
  exact execFinish_of_no_run hready ho (hraw hm)

/-- Settles O25: in IDLE no run is pending (item 4 of R28). -/
theorem finishWithoutBytesAccepted : Obligations.FinishWithoutBytesAccepted := by
  intro s hready hi
  obtain ⟨-, -, -, hnorun, -⟩ := hready.2
  exact execFinish_of_no_run hready (.inl hi) (hnorun (.inl hi))

/-! ### The fixed mode (R146) -/

/-- Outside IDLE no command writes the mode or enters IDLE. -/
theorem exec_mode_of_ne_idle {i : Instr} {s t : State} (hx : exec i s = .next t) (hne : s.phase ≠ .idle) :
    t.mode = s.mode ∧ t.phase ≠ .idle := by
  obtain ⟨-, hcase⟩ := exec_next hx
  rcases hcase with
    ⟨-, rfl⟩ | ⟨-, -, rfl⟩ | ⟨m, -, hi, -⟩ | ⟨b, -, -, -, rfl⟩ | ⟨-, -, rfl⟩ | ⟨-, rfl⟩ | ⟨-, -, -, -, rfl⟩
  · exact ⟨rfl, hne⟩
  · exact ⟨rfl, hne⟩
  · exact absurd hi hne
  · obtain ⟨hphase, -, hmode, -⟩ := submitAccepted_fields s (BitVec.ofNat 8 b)
    exact ⟨hmode, by simp [hphase]⟩
  · obtain ⟨hphase, -, hmode, -⟩ := finishAccepted_fields s
    exact ⟨hmode, by simp [hphase]⟩
  · exact ⟨rfl, by simp⟩
  · exact ⟨rfl, by simp⟩

/-- Settles O41: a step without reset is a command. -/
theorem modeFixedOutsideIdle : Obligations.ModeFixedOutsideIdle := by
  intro s t h hrst hne
  rcases step_next h with ⟨hrst', -⟩ | ⟨-, i, -, hx⟩
  · rw [hrst] at hrst'
    cases hrst'
  · exact exec_mode_of_ne_idle (s := s.consumed) hx hne

/-! ### The phase transitions (R145) -/

/-- The table's column of NOP. -/
theorem phaseAfter_nop (p : Phase) : phaseAfter p .nop = p := by
  cases p <;> rfl

/-- The table's entry FAULT outside the row of FAULT: the SESSION_STATE errors of R201. -/
theorem phaseAfter_of_sessionState {p : Phase} {i : Instr}
    (h : (p = .done ∧ ((∃ b, i = .submit b) ∨ i = .finish)) ∨ ((p = .active ∨ p = .done) ∧ ∃ m, i = .configure m)) :
    phaseAfter p i.op = .fault := by
  rcases h with ⟨rfl, ⟨b, rfl⟩ | rfl⟩ | ⟨rfl | rfl, m, rfl⟩ <;> rfl

/-- The phase after a well-formed command is the table's. -/
theorem exec_phase {i : Instr} {s t : State} (hx : exec i s = .next t) (hwf : i.wellFormed = true) :
    t.phase = phaseAfter s.phase i.op := by
  obtain ⟨-, hcase⟩ := exec_next hx
  rcases hcase with
    ⟨hp, rfl⟩ | ⟨-, rfl, rfl⟩ | ⟨m, rfl, hi, rfl⟩ | ⟨b, rfl, ho, -, rfl⟩ | ⟨rfl, ho, rfl⟩ | ⟨hp, rfl⟩ | ⟨b, rfl, -, hb, rfl⟩
  · rw [State.emit_phase, hp]
    rfl
  · exact (phaseAfter_nop s.phase).symm
  · rw [State.emit_phase, State.setMode_phase, hi]
    rfl
  · obtain ⟨hphase, -⟩ := submitAccepted_fields s (BitVec.ofNat 8 b)
    rw [hphase]
    rcases ho with hp | hp <;> rw [hp] <;> rfl
  · obtain ⟨hphase, -⟩ := finishAccepted_fields s
    rw [hphase]
    rcases ho with hp | hp <;> rw [hp] <;> rfl
  · exact (phaseAfter_of_sessionState hp).symm
  · exact absurd (of_decide_eq_true hwf) (Nat.not_le.mpr hb)

/-- A command that enters FAULT takes the fault entry, with INVALID_BYTE for a wide operand only (R202, R203). -/
theorem exec_enters_fault {i : Instr} {s t : State} (hx : exec i s = .next t) (hp : s.phase ≠ .fault)
    (hf : t.phase = .fault) :
    t = s.raise .sessionState ∨ ∃ b, i = .submit b ∧ 255 < b ∧ t = s.raise .invalidByte := by
  obtain ⟨-, hcase⟩ := exec_next hx
  rcases hcase with
    ⟨hfault, -⟩ | ⟨-, -, rfl⟩ | ⟨m, -, -, rfl⟩ | ⟨b, -, -, -, rfl⟩ | ⟨-, -, rfl⟩ | ⟨-, ht⟩ | ⟨b, hi, -, hb, ht⟩
  · exact absurd hfault hp
  · exact absurd hf hp
  · exact absurd hf hp
  · obtain ⟨hphase, -⟩ := submitAccepted_fields s (BitVec.ofNat 8 b)
    cases hphase.symm.trans hf
  · obtain ⟨hphase, -⟩ := finishAccepted_fields s
    cases hphase.symm.trans hf
  · exact .inl ht
  · exact .inr ⟨b, hi, hb, ht⟩

/-- A well-formed command that enters FAULT records SESSION_STATE. -/
theorem exec_errCode_of_enters_fault {i : Instr} {s t : State} (hx : exec i s = .next t) (hwf : i.wellFormed = true)
    (hp : s.phase ≠ .fault) (hf : t.phase = .fault) : t.errCode = .sessionState := by
  rcases exec_enters_fault hx hp hf with rfl | ⟨b, rfl, hb, -⟩
  · rfl
  · exact absurd (of_decide_eq_true hwf) (Nat.not_le.mpr hb)

/-- Settles O42: every command completes, with the table's phase, and a reset enters IDLE. -/
theorem phaseTransitionTable : Obligations.PhaseTransitionTable := by
  refine ⟨fun i s hready hwf => ?_, fun s hrst => ⟨s.consumed.doReset, if_pos hrst, rfl⟩⟩
  obtain ⟨t, hx⟩ := exec_completes i hready
  refine ⟨t, hx, exec_phase hx hwf, exec_errCode_of_enters_fault hx hwf, ?_⟩
  rintro m rfl hi
  rw [execConfigure_run m hready hi] at hx
  cases hx
  rfl

end Sys2Proof.Machine
end

section
/-! PROOFS. The statements of 60_exceptions.md: what raises each error (R201, R202), the fault entry (R203, R204), FAULT until a
reset (R205), the order of the checks (R206), and several blocks side by side (R212). -/

namespace Sys2Proof.Machine

/-! ### The fault entry (R202, R203, R204) -/

/-- SUBMIT in DONE takes the fault entry, whatever its operand (R201 item 1, R206). -/
theorem execSubmit_raise_of_done {s : State} (b : Nat) (h : s.Ready) (hd : s.phase = .done) :
    exec (.submit b) s = .next (s.raise .sessionState) := by
  rw [exec, execSubmit, command_run _ h (by simp [hd]), if_pos hd]

/-- FINISH in DONE takes the fault entry (R201 item 2). -/
theorem execFinish_raise_of_done {s : State} (h : s.Ready) (hd : s.phase = .done) :
    exec .finish s = .next (s.raise .sessionState) := by
  rw [exec, execFinish, command_run _ h (by simp [hd]), if_pos hd]

/-- SUBMIT of a wide operand takes the fault entry where SUBMIT is allowed (R202). -/
theorem execSubmit_raise_of_wide {s : State} {b : Nat} (h : s.Ready) (ho : s.Open) (hb : 255 < b) :
    exec (.submit b) s = .next (s.raise .invalidByte) := by
  rw [exec, execSubmit, command_run _ h ho.ne_fault, if_neg ho.ne_done, submittedByte_of_gt hb]

/-- The decoder yields no command that lacks a word, so no wide operand (R62). -/
theorem wellFormed_of_decode {w : CmdWord} {i : Instr} (h : decode w = .ok i) : i.wellFormed = true := by
  obtain ⟨-, rfl⟩ := decode_eq_ok.mp h
  exact decodeIgnoring_wellFormed w

/-- Settles O22: a decoded command is well-formed, and one that writes the error code then writes SESSION_STATE. -/
theorem invalidByteOnlyFromAWideOperand : Obligations.InvalidByteOnlyFromAWideOperand := by
  refine ⟨fun b s => execSubmit_raise_of_wide, fun s t h hbyte => ?_⟩
  rcases step_next h with ⟨-, rfl⟩ | ⟨-, i, hdec, hx⟩
  · cases hbyte
  · rcases exec_errCode hx with hsame | ⟨hp, hfault, -⟩
    · exact hsame.symm.trans hbyte
    · have hstate := exec_errCode_of_enters_fault hx (wellFormed_of_decode hdec) hp hfault
      cases hstate.symm.trans hbyte

/-- Settles O26: outside FAULT the code is NONE before the command, so the command that leaves SESSION_STATE wrote it. -/
theorem sessionStateRaisedExactlyBy : Obligations.SessionStateRaisedExactlyBy := by
  refine ⟨fun i s hready hcause => ?_, fun i s t hx hp hcode => ?_⟩
  · rcases hcause with ⟨hd, ⟨b, rfl⟩ | rfl⟩ | ⟨hp, m, rfl⟩
    · exact execSubmit_raise_of_done b hready hd
    · exact execFinish_raise_of_done hready hd
    · exact execConfigure_raise m hready hp
  · obtain ⟨⟨-, hc⟩, hcase⟩ := exec_next hx
    have hne : t.errCode ≠ s.errCode := by simp [hcode, hc.errCode_eq_none hp]
    rcases hcase with
      ⟨-, rfl⟩ | ⟨-, -, rfl⟩ | ⟨m, -, -, rfl⟩ | ⟨b, -, -, -, rfl⟩ | ⟨-, -, rfl⟩ | ⟨hcause, -⟩ | ⟨-, -, -, -, rfl⟩
    · exact absurd rfl hne
    · exact absurd rfl hne
    · exact absurd rfl hne
    · obtain ⟨-, herr, -⟩ := submitAccepted_fields s (BitVec.ofNat 8 b)
      exact absurd herr hne
    · obtain ⟨-, herr, -⟩ := finishAccepted_fields s
      exact absurd herr hne
    · exact hcause
    · cases hcode

/-- Settles O27: a command enters FAULT by the fault entry only. -/
theorem faultEntryIsPrecise : Obligations.FaultEntryIsPrecise := by
  intro i s t hx hp hf
  rcases exec_enters_fault hx hp hf with ht | ⟨-, -, -, ht⟩
  · exact ⟨.sessionState, .inl rfl, ht⟩
  · exact ⟨.invalidByte, .inr rfl, ht⟩

/-! ### FAULT until a reset (R205) -/

/-- In FAULT every command writes the token only. -/
theorem exec_of_fault (i : Instr) {s : State} (h : s.Ready) (hp : s.phase = .fault) : exec i s = .next (s.emit .noTok) := by
  obtain ⟨body, hx⟩ := exec_eq_command i s
  exact hx.trans (command_fault body h hp)

/-- A step without reset from FAULT takes the presentation and writes the token. -/
theorem step_of_fault {s t : State} (h : step s = .next t) (hp : s.phase = .fault) (hrst : s.presented.rst = false) :
    t = s.consumed.emit .noTok := by
  rcases step_next h with ⟨hrst', -⟩ | ⟨-, i, -, hx⟩
  · rw [hrst] at hrst'
    cases hrst'
  · obtain ⟨hready, -⟩ := exec_next hx
    rw [exec_of_fault i hready hp] at hx
    exact (Host.Outcome.next.inj hx).symm

/-- A step with `rst = 1` is the reset, from every state and for every word (R240, R206). -/
theorem step_of_rst {s : State} (hrst : s.presented.rst = true) : step s = .next s.consumed.doReset :=
  if_pos hrst

/-- Settles O28, by the reset request presented. -/
theorem faultIsStickyUntilReset : Obligations.FaultIsStickyUntilReset := by
  refine ⟨fun i s => exec_of_fault i, fun s t hp h => ?_⟩
  cases hrst : s.presented.rst with
  | true =>
    rw [step_of_rst hrst] at h
    cases h
    exact .inl ⟨rfl, rfl⟩
  | false => exact .inr ⟨rfl, step_of_fault h hp hrst⟩

/-- A schedule without reset presents none now; with nothing left, the idle presentation is presented (log entry 2). -/
theorem State.presented_rst_of_inputs {s : State} (h : ∀ inp ∈ s.inputs, inp.rst = false) : s.presented.rst = false := by
  unfold State.presented
  cases hin : s.inputs with
  | nil => rfl
  | cons inp rest => exact h inp (by simp [hin])

/-- Settles O31, by induction on the number of steps: each outputs nothing and leaves FAULT, the code and a schedule without
reset. -/
theorem faultEndsTheOutput : Obligations.FaultEndsTheOutput := by
  intro n
  induction n with
  | zero =>
    intro s t ts hp _ h
    cases h
    exact ⟨rfl, hp, rfl⟩
  | succ n ih =>
    intro s t ts hp hin h
    obtain ⟨u, us, hstep, hrun, rfl⟩ := runTokens_next h
    obtain rfl := step_of_fault hstep hp (State.presented_rst_of_inputs hin)
    exact ih (s.consumed.emit .noTok) t us hp (fun inp hmem => hin inp (List.mem_of_mem_tail hmem)) hrun

/-! ### The order of the checks (R206) -/

/-- An accepted operand reaches normal execution (R134). -/
theorem execSubmit_run_of_le {s : State} {b : Nat} (h : s.Ready) (ho : s.Open) (hb : b ≤ 255) :
    exec (.submit b) s = .next (submitAccepted s (BitVec.ofNat 8 b)) := by
  rw [exec, execSubmit, command_run _ h ho.ne_fault, if_neg ho.ne_done, submittedByte_of_le hb]

/-- Settles O29, one rule for each place in the order. -/
theorem errorPriority : Obligations.ErrorPriority := by
  intro s hready
  refine ⟨step_of_rst, fun b => exec_of_fault (.submit b) hready, fun b => execSubmit_raise_of_done b hready,
    fun b => execSubmit_raise_of_wide hready, fun b ho hb => ?_⟩
  obtain ⟨hphase, herr, -⟩ := submitAccepted_fields s (BitVec.ofNat 8 b)
  exact ⟨_, execSubmit_run_of_le hready ho hb, hphase, herr⟩

/-! ### Several blocks (R212) -/

/-- A step of block `k` that is taken replaces block `k` by the next state of its own step. -/
theorem stepInstance_eq_some {k : Nat} {blocks after : List State} (h : stepInstance k blocks = some after) :
    ∃ s t, blocks[k]? = some s ∧ step s = .next t ∧ after = blocks.set k t := by
  unfold stepInstance at h
  split at h
  · cases h
  · rename_i s hs
    split at h
    · rename_i t ht
      exact ⟨s, t, hs, ht, (Option.some.inj h).symm⟩
    · cases h
    · cases h

/-- Settles O50: writing one entry of the list leaves the others. -/
theorem instancesShareNothing : Obligations.InstancesShareNothing := by
  intro k blocks after h
  obtain ⟨s, t, hs, ht, rfl⟩ := stepInstance_eq_some h
  obtain ⟨hk, -⟩ := List.getElem?_eq_some_iff.mp hs
  exact ⟨fun j hj => List.getElem?_set_ne hj.symm, s, t, hs, ht, List.getElem?_set_self hk⟩

end Sys2Proof.Machine
end

section
/-! PROOFS. The statements of 70_reset_and_hazards.md: a complete session (R244, R251), the reset step (R240, R241) and the
commands before the first reset (R243). -/

namespace Sys2Proof.Machine

/-! ### A session in boot order (R244, R251) -/

/-- FINISH after one accepted SUBMIT per byte ends a booted session well, in its mode, with its schedule taken. -/
theorem finishAccepted_afterSubmits_endsWell {s : State} {m : Mode} {bytes : List Byte}
    (h : s.Booted m (bytes.map Input.submit ++ [Input.finish])) :
    (finishAccepted (afterSubmits s bytes).consumed).EndedWell ∧
      (finishAccepted (afterSubmits s bytes).consumed).mode = m ∧
      (finishAccepted (afterSubmits s bytes).consumed).inputs = [] := by
  obtain ⟨-, hready, hopen, hmode, hleft⟩ := runTokens_submits h.ready h.isOpen h.inputs_eq
  obtain ⟨hphase, herr, hmode', hin, -⟩ := finishAccepted_fields (afterSubmits s bytes).consumed
  have hnone : (afterSubmits s bytes).errCode = .none := hready.2.errCode_eq_none hopen.ne_fault
  exact ⟨⟨hphase, herr.trans hnone⟩, hmode'.trans (hmode.trans h.mode_eq), hin.trans (congrArg List.tail hleft)⟩

/-- Settles O47: the session runs as a boot without output, the SUBMITs and FINISH; its end is FINISH's, and its output is
that of the booted block, which decodes to the bytes in rle mode and is them in raw mode. -/
theorem bootOrderSessionEndsWell : Obligations.BootOrderSessionEndsWell := by
  intro s ms bytes
  obtain ⟨t, ts, hboot, hout, hrun⟩ := runInputs_session s ms bytes
  obtain ⟨hend, hmode, hin⟩ := finishAccepted_afterSubmits_endsWell hboot
  have hsession : outBytes (ts ++ submitTokens t bytes ++ [(finishAccepted (afterSubmits t bytes).consumed).token]) =
      sessionOutput t bytes := by simp [sessionOutput, hout]
  refine ⟨_, _, hrun, hend, hmode, hin, fun hrle => ?_, fun hraw => ?_⟩ <;> rw [hsession]
  · rw [hrle] at hboot
    exact (sessionOutput_decodesTo hboot).refDecode_eq
  · exact sessionOutput_raw (hboot.mode_eq.trans hraw) bytes

/-! ### The reset step (R240, R241) -/

/-- A step with `rst = 1` leaves the reset state, with the presentations after it to come: nothing of the earlier session
and nothing of the word beside the request. -/
theorem step_reset_state {s : State} {cmd : CmdWord} {rest : List Input} (hin : s.inputs = ⟨true, cmd⟩ :: rest) :
    step s = .next { State.reset with inputs := rest } := by
  have hrst : s.presented.rst = true := by rw [State.presented, hin, List.headD_cons]
  have hstate : s.consumed.doReset = { State.reset with inputs := s.inputs.tail } := rfl
  rw [step_of_rst hrst, hstate, hin, List.tail_cons]

/-- Settles O2: the next state is the reset state whichever state and word stand before it. -/
theorem resetStepRestoresResetValues : Obligations.ResetStepRestoresResetValues := by
  intro s cmd rest hin
  exact ⟨_, step_reset_state hin, rfl, rfl, rfl, rfl, rfl, rfl, rfl, rfl, fun _ _ => step_reset_state⟩

/-! ### Before the first reset (R243) -/

/-- The check that every command passes first refuses a command before the first reset. -/
theorem command_beforeReset {s : State} (body : State → State) (h : s.hasReset = false) :
    command s body = .refused .beforeReset :=
  if_pos h

/-- Settles O3: that check stands in front of every command, and a reset step reads no register. -/
theorem commandBeforeResetRefused : Obligations.CommandBeforeResetRefused := by
  intro s h
  refine ⟨fun i => ?_, fun cmd rest hin => ⟨_, step_reset_state hin, rfl⟩⟩
  obtain ⟨body, hx⟩ := exec_eq_command i s
  exact hx.trans (command_beforeReset body h)

end Sys2Proof.Machine
end

section
/-! PROOFS. The statement about a host with nothing to present (R132, D15; log entry 2). -/

namespace Sys2Proof.Machine

/-! ### The empty schedule -/

/-- The word of the idle presentation is NOP's (R61, R252). -/
theorem decode_idle_word : decode Input.idle.cmd = .ok .nop := by decide

/-- The idle presentation requests no reset and spells NOP. -/
theorem stepInput_idle (s : State) : stepInput Input.idle s = exec .nop s := by
  have hrst : ¬ Input.idle.rst = true := by decide
  rw [stepInput, if_neg hrst, decode_idle_word]

/-- With nothing to present, the idle presentation stands on the ports. -/
theorem State.presented_of_nil {s : State} (h : s.inputs = []) : s.presented = Input.idle := by
  rw [State.presented, h, List.headD_nil]

/-- With nothing to present, nothing is taken. -/
theorem State.consumed_of_nil {s : State} (h : s.inputs = []) : s.consumed = s := by
  have htail : s.inputs.tail = s.inputs := by rw [h, List.tail_nil]
  rw [State.consumed, htail]

/-- Settles O11: the step presents the idle word to the state as it stands. -/
theorem emptyScheduleStepsAsNop : Obligations.EmptyScheduleStepsAsNop := by
  intro s h
  rw [step, State.presented_of_nil h, State.consumed_of_nil h, stepInput_idle]

end Sys2Proof.Machine
end
